-- ==== Sys2Proof/Word.lean ====
section
/-! DEFINITION. The two word sizes of the core (00_scope.md R2, R7): registers and memory cells are 8 bits wide,
opcodes, `pc`, `I` and the stack slots are 16 bits wide. -/

namespace Sys2Proof

/-- 8 bits: a general register, a timer, a memory cell (R2, R21, R28, R50). -/
abbrev Byte := BitVec 8

/-- 16 bits: an opcode, `pc`, `I`, a stack slot (R23, R25, R27, R70). -/
abbrev Word := BitVec 16

end Sys2Proof
end

