-- ==== Sys2Proof/Config.lean ====
section
/-! DEFINITION. What is fixed for one machine (00_scope.md R5) and what its host decides at every iteration
(60_exceptions.md R200). The parameters' default values stand in Machine/Params.lean. -/

namespace Sys2Proof

/-- A logical key 0x0-0xF (R33, R220). -/
abbrev Key := Fin 16

/-- COLLISION_RULE (R145): which pixels set VF in a draw. -/
inductive CollisionRule
  /-- normative: a set pixel that stays set -/
  | remainsSet
  /-- the alternative the source names: a set pixel that is erased -/
  | erased
  deriving DecidableEq, Repr

/-- The frame-tick schedule (R207). -/
inductive FrameSchedule
  /-- the host says at each iteration whether a frame is due -/
  | hostClock
  /-- a frame is due every `frameIter` iterations (FRAME_ITER) -/
  | virtualClock (frameIter : Nat)
  deriving DecidableEq, Repr

/-- The parameters of R5 that a machine may choose. They never change during a run.
MEM_SIZE, the window, the stack depth and the other values the source fixes are in Machine/Params.lean;
ADDR_POLICY is fixed at Mask (R55). -/
structure Config where
  /-- FONT_DATA, 16 glyphs of 5 bytes (R31) -/
  fontData : Vector Byte 80
  /-- COLLISION_RULE (R145) -/
  collision : CollisionRule
  /-- FRAME_SCHEDULE (R207) -/
  schedule : FrameSchedule
  /-- INSTR_RATE_HZ (R5, R205, R250): no rule of the model depends on it -/
  instrRateHz : Nat
  deriving DecidableEq, Repr

/-- The input record of one scheduler iteration (R200). -/
structure Input where
  /-- the quit/escape signal -/
  quit : Bool
  /-- the new key state: `true` is pressed -/
  keys : Vector Bool 16
  /-- the key reported released in this tick -/
  release : Option Key
  /-- whether 1/60 s has accumulated; read only under `hostClock` (R207) -/
  frameDue : Bool
  /-- the random byte, read only if Cxkk executes (R224) -/
  rand : Byte
  deriving DecidableEq, Repr, Inhabited

/-- A host that reports nothing: no quit, no key, no release, no frame due. It is only a convenience for
writing a script of inputs. -/
def Input.quiet : Input :=
  { quit := false, keys := Vector.replicate 16 false, release := none, frameDue := false, rand := 0 }

/-- FREE VALUE (log entry 1): what the host sends in iteration number `n` when no script of inputs is left.
It has no body, so nothing can be proved of it: R228 lets the host choose any values. -/
opaque Config.hostInput : Nat → Input

end Sys2Proof
end

