-- ==== Sys2Proof/Machine/Params.lean ====
section
/-! DEFINITION. The parameter values of 00_scope.md R5: those the source fixes, and the defaults of those a
machine may choose. -/

namespace Sys2Proof.Params

/-- MEM_SIZE (R50): bytes 0x000-0xFFE. -/
def memSize : Nat := 4095

/-- The end of the font region 0x000-0x1FF (R51, R53). -/
def fontEnd : Nat := 0x200

/-- PROG_BASE (R5, R242). -/
def progBase : Nat := 0x200

/-- PROG_LIMIT, exclusive (R5, R243). -/
def progLimit : Nat := 0xE8F

/-- The largest program image, 3215 bytes (R243). -/
def maxImage : Nat := progLimit - progBase

/-- FETCH_LO (R5, R71). -/
def fetchLo : Nat := 0x200

/-- FETCH_HI, exclusive (R5, R71). -/
def fetchHi : Nat := 0xFFE

/-- The default glyphs: the table of 10_state.md R31, digit 0 first (log entry 5, PRESUMED: the spec itself marks
these bytes as general knowledge). -/
def fontGlyphs : List (List Byte) :=
  [[0xF0, 0x90, 0x90, 0x90, 0xF0],
   [0x20, 0x60, 0x20, 0x20, 0x70],
   [0xF0, 0x10, 0xF0, 0x80, 0xF0],
   [0xF0, 0x10, 0xF0, 0x10, 0xF0],
   [0x90, 0x90, 0xF0, 0x10, 0x10],
   [0xF0, 0x80, 0xF0, 0x10, 0xF0],
   [0xF0, 0x80, 0xF0, 0x90, 0xF0],
   [0xF0, 0x10, 0x20, 0x40, 0x40],
   [0xF0, 0x90, 0xF0, 0x90, 0xF0],
   [0xF0, 0x90, 0xF0, 0x10, 0xF0],
   [0xF0, 0x90, 0xF0, 0x90, 0x90],
   [0xE0, 0x90, 0xE0, 0x90, 0xE0],
   [0xF0, 0x80, 0x80, 0x80, 0xF0],
   [0xE0, 0x90, 0x90, 0x90, 0xE0],
   [0xF0, 0x80, 0xF0, 0x80, 0xF0],
   [0xF0, 0x80, 0xF0, 0x80, 0x80]]

/-- The default FONT_DATA: glyph `d` is bytes `5*d` to `5*d + 4` (R31). -/
def defaultFont : Vector Byte 80 := ⟨fontGlyphs.flatten.toArray, rfl⟩

/-- The defaults of R5: `RemainsSet`, `VirtualClock(10)` and 600 Hz (log entry 4). -/
def defaultConfig : Config :=
  { fontData := defaultFont
    collision := .remainsSet
    schedule := .virtualClock 10
    instrRateHz := 600 }

end Sys2Proof.Params

namespace Sys2Proof

/-- What a byte of memory holds after initialisation when no image covers it (R39, R241): the font at
0x000-0x04F, 0x00 everywhere else. It is what an address that memory does not list reads as. -/
def Config.resetByte (c : Config) (a : Nat) : Byte := c.fontData[a]?.getD 0

end Sys2Proof
end

