-- ==== Sys2Proof/Syntax.lean ====
section
/-! DEFINITION. The 34 instructions (30_encoding.md R73, R76), one constructor for each row of
spec/opcode_table.json. The operand types carry the widths of R73, so a term is an encodable instruction. -/

namespace Sys2Proof

/-- A register number 0x0-0xF, the fields `x` and `y` (R21, R73). -/
abbrev RegIx := Fin 16

/-- The decoded instructions of R76. -/
inductive Instr
  /-- 00E0 `CLS` -/
  | cls
  /-- 00EE `RET` -/
  | ret
  /-- 1nnn `JP nnn` -/
  | jp (nnn : BitVec 12)
  /-- 2nnn `CALL nnn` -/
  | call (nnn : BitVec 12)
  /-- 3xkk `SE Vx, kk` -/
  | seVxKk (x : RegIx) (kk : Byte)
  /-- 4xkk `SNE Vx, kk` -/
  | sneVxKk (x : RegIx) (kk : Byte)
  /-- 5xy0 `SE Vx, Vy` -/
  | seVxVy (x y : RegIx)
  /-- 6xkk `LD Vx, kk` -/
  | ldVxKk (x : RegIx) (kk : Byte)
  /-- 7xkk `ADD Vx, kk` -/
  | addVxKk (x : RegIx) (kk : Byte)
  /-- 8xy0 `LD Vx, Vy` -/
  | ldVxVy (x y : RegIx)
  /-- 8xy1 `OR Vx, Vy` -/
  | orVxVy (x y : RegIx)
  /-- 8xy2 `AND Vx, Vy` -/
  | andVxVy (x y : RegIx)
  /-- 8xy3 `XOR Vx, Vy` -/
  | xorVxVy (x y : RegIx)
  /-- 8xy4 `ADD Vx, Vy` -/
  | addVxVy (x y : RegIx)
  /-- 8xy5 `SUB Vx, Vy` -/
  | subVxVy (x y : RegIx)
  /-- 8xy6 `SHR Vx, Vy` -/
  | shrVxVy (x y : RegIx)
  /-- 8xy7 `SUBN Vx, Vy` -/
  | subnVxVy (x y : RegIx)
  /-- 8xyE `SHL Vx, Vy` -/
  | shlVxVy (x y : RegIx)
  /-- 9xy0 `SNE Vx, Vy` -/
  | sneVxVy (x y : RegIx)
  /-- Annn `LD I, nnn` -/
  | ldINnn (nnn : BitVec 12)
  /-- Bnnn `JP V0, nnn` -/
  | jpV0Nnn (nnn : BitVec 12)
  /-- Cxkk `RND Vx, kk` -/
  | rndVxKk (x : RegIx) (kk : Byte)
  /-- Dxyn `DRW Vx, Vy, n` -/
  | drwVxVyN (x y : RegIx) (n : BitVec 4)
  /-- Ex9E `SKP Vx` -/
  | skpVx (x : RegIx)
  /-- ExA1 `SKNP Vx` -/
  | sknpVx (x : RegIx)
  /-- Fx07 `LD Vx, DT` -/
  | ldVxDT (x : RegIx)
  /-- Fx0A `LD Vx, K` -/
  | ldVxK (x : RegIx)
  /-- Fx15 `LD DT, Vx` -/
  | ldDTVx (x : RegIx)
  /-- Fx18 `LD ST, Vx` -/
  | ldSTVx (x : RegIx)
  /-- Fx1E `ADD I, Vx` -/
  | addIVx (x : RegIx)
  /-- Fx29 `LD F, Vx` -/
  | ldFVx (x : RegIx)
  /-- Fx33 `LD B, Vx` -/
  | ldBVx (x : RegIx)
  /-- Fx55 `LD [I], Vx` -/
  | ldMemVx (x : RegIx)
  /-- Fx65 `LD Vx, [I]` -/
  | ldVxMem (x : RegIx)
  deriving DecidableEq, Repr

end Sys2Proof
end

