-- ==== Sys2Proof/WellFormed.lean ====
section
/-! DEFINITION. The checks on what is given to the machine from outside: its parameters (00_scope.md R5) and its
program image (70_reset_and_hazards.md R243). An instruction needs none: the operand types of Syntax.lean carry
the field widths of R73, so every `Instr` is well formed (log entry 6). -/

namespace Sys2Proof

/-- INSTR_RATE_HZ lies in 500..700 (R5). -/
def Config.rateOk (c : Config) : Bool := decide (500 ≤ c.instrRateHz ∧ c.instrRateHz ≤ 700)

/-- FRAME_ITER is at least 1: a tick schedule "FRAME_ITER, 2*FRAME_ITER, and so on" (R207) has no period 0. -/
def Config.scheduleOk (c : Config) : Bool :=
  match c.schedule with
  | .hostClock => true
  | .virtualClock n => decide (0 < n)

/-- The parameters are ones R5 and R207 allow. -/
def Config.wf (c : Config) : Bool := c.rateOk && c.scheduleOk

/-- The image fits the program region: at most 3215 bytes, and 0 is accepted (R243). -/
def imageFits (image : List Byte) : Bool := decide (image.length ≤ Params.maxImage)

end Sys2Proof
end

