-- ==== Sys2Proof/Decode.lean ====
section
/-! DEFINITION. Decoding and encoding (30_encoding.md R70-R79). The decoder is a total function of the opcode
alone (R75, R82); a word that matches no row of R76 is rejected by the name of its family (R79). -/

namespace Sys2Proof

/-- Why bytes are no instruction: fewer than two of them (R70), or an unrecognized word of one of the six
families that R79 lists. -/
inductive Reject
  | truncated
  | family0
  | family5
  | family8
  | family9
  | familyE
  | familyF
  deriving DecidableEq, Repr

/-- `op[15:12]` (R73). -/
def fieldFamily (op : Word) : Nat := (op.extractLsb' 12 4).toNat

/-- `x = op[11:8]` (R73). -/
def fieldX (op : Word) : RegIx := (op.extractLsb' 8 4).toFin

/-- `y = op[7:4]` (R73). -/
def fieldY (op : Word) : RegIx := (op.extractLsb' 4 4).toFin

/-- `n = op[3:0]` (R73). -/
def fieldN (op : Word) : BitVec 4 := op.extractLsb' 0 4

/-- `kk = op[7:0]` (R73). -/
def fieldKk (op : Word) : Byte := op.extractLsb' 0 8

/-- `nnn = op[11:0]` (R73). -/
def fieldNnn (op : Word) : BitVec 12 := op.extractLsb' 0 12

/-- Family 0: the whole word is matched (R76). -/
def decode0 (op : Word) : Except Reject Instr :=
  match op.toNat with
  | 0x00E0 => .ok .cls
  | 0x00EE => .ok .ret
  | _ => .error .family0

/-- Family 5: the sub-selector is `n` (R76). -/
def decode5 (op : Word) : Except Reject Instr :=
  match (fieldN op).toNat with
  | 0x0 => .ok (.seVxVy (fieldX op) (fieldY op))
  | _ => .error .family5

/-- Family 8: the sub-selector is `n` (R76). -/
def decode8 (op : Word) : Except Reject Instr :=
  match (fieldN op).toNat with
  | 0x0 => .ok (.ldVxVy (fieldX op) (fieldY op))
  | 0x1 => .ok (.orVxVy (fieldX op) (fieldY op))
  | 0x2 => .ok (.andVxVy (fieldX op) (fieldY op))
  | 0x3 => .ok (.xorVxVy (fieldX op) (fieldY op))
  | 0x4 => .ok (.addVxVy (fieldX op) (fieldY op))
  | 0x5 => .ok (.subVxVy (fieldX op) (fieldY op))
  | 0x6 => .ok (.shrVxVy (fieldX op) (fieldY op))
  | 0x7 => .ok (.subnVxVy (fieldX op) (fieldY op))
  | 0xE => .ok (.shlVxVy (fieldX op) (fieldY op))
  | _ => .error .family8

/-- Family 9: the sub-selector is `n` (R76). -/
def decode9 (op : Word) : Except Reject Instr :=
  match (fieldN op).toNat with
  | 0x0 => .ok (.sneVxVy (fieldX op) (fieldY op))
  | _ => .error .family9

/-- Family E: the sub-selector is `kk` (R76). -/
def decodeE (op : Word) : Except Reject Instr :=
  match (fieldKk op).toNat with
  | 0x9E => .ok (.skpVx (fieldX op))
  | 0xA1 => .ok (.sknpVx (fieldX op))
  | _ => .error .familyE

/-- Family F: the sub-selector is `kk` (R76). -/
def decodeF (op : Word) : Except Reject Instr :=
  match (fieldKk op).toNat with
  | 0x07 => .ok (.ldVxDT (fieldX op))
  | 0x0A => .ok (.ldVxK (fieldX op))
  | 0x15 => .ok (.ldDTVx (fieldX op))
  | 0x18 => .ok (.ldSTVx (fieldX op))
  | 0x1E => .ok (.addIVx (fieldX op))
  | 0x29 => .ok (.ldFVx (fieldX op))
  | 0x33 => .ok (.ldBVx (fieldX op))
  | 0x55 => .ok (.ldMemVx (fieldX op))
  | 0x65 => .ok (.ldVxMem (fieldX op))
  | _ => .error .familyF

/-- The decoder of one 16-bit opcode (R75, R76): dispatch on `op[15:12]`, then on the family's sub-selector.
All sixteen families are covered, so nothing can raise `InvalidOpcode` (R81); the last arm is family 0xF. -/
def decodeWord (op : Word) : Except Reject Instr :=
  match fieldFamily op with
  | 0x0 => decode0 op
  | 0x1 => .ok (.jp (fieldNnn op))
  | 0x2 => .ok (.call (fieldNnn op))
  | 0x3 => .ok (.seVxKk (fieldX op) (fieldKk op))
  | 0x4 => .ok (.sneVxKk (fieldX op) (fieldKk op))
  | 0x5 => decode5 op
  | 0x6 => .ok (.ldVxKk (fieldX op) (fieldKk op))
  | 0x7 => .ok (.addVxKk (fieldX op) (fieldKk op))
  | 0x8 => decode8 op
  | 0x9 => decode9 op
  | 0xA => .ok (.ldINnn (fieldNnn op))
  | 0xB => .ok (.jpV0Nnn (fieldNnn op))
  | 0xC => .ok (.rndVxKk (fieldX op) (fieldKk op))
  | 0xD => .ok (.drwVxVyN (fieldX op) (fieldY op) (fieldN op))
  | 0xE => decodeE op
  | _ => decodeF op

/-- Two bytes as an opcode, the first the more significant one (R57, R72). -/
def wordOfBytes (hi lo : Byte) : Word := hi ++ lo

/-- The more significant byte of an opcode, the one at the lower address (R72). -/
def wordHi (op : Word) : Byte := op.extractLsb' 8 8

/-- The less significant byte of an opcode, the one at the higher address (R72). -/
def wordLo (op : Word) : Byte := op.extractLsb' 0 8

/-- The decoder of a byte sequence: every instruction is two bytes (R70). It answers the instruction and the
bytes after it. -/
def decode : List Byte → Except Reject (Instr × List Byte)
  | hi :: lo :: rest =>
    match decodeWord (wordOfBytes hi lo) with
    | .ok i => .ok (i, rest)
    | .error r => .error r
  | _ => .error .truncated

/-- Format A of R73. -/
def wordA (family : BitVec 4) (nnn : BitVec 12) : Word := family ++ nnn

/-- Format XK of R73. -/
def wordXK (family : BitVec 4) (x : RegIx) (kk : Byte) : Word := family ++ BitVec.ofFin (w := 4) x ++ kk

/-- Formats XY and XYN of R73. -/
def wordXYN (family : BitVec 4) (x y : RegIx) (n : BitVec 4) : Word :=
  family ++ BitVec.ofFin (w := 4) x ++ BitVec.ofFin (w := 4) y ++ n

/-- The opcode of an instruction, from the formats of R73 and the rows of R76. -/
def encodeWord : Instr → Word
  | .cls => 0x00E0
  | .ret => 0x00EE
  | .jp nnn => wordA 0x1 nnn
  | .call nnn => wordA 0x2 nnn
  | .seVxKk x kk => wordXK 0x3 x kk
  | .sneVxKk x kk => wordXK 0x4 x kk
  | .seVxVy x y => wordXYN 0x5 x y 0x0
  | .ldVxKk x kk => wordXK 0x6 x kk
  | .addVxKk x kk => wordXK 0x7 x kk
  | .ldVxVy x y => wordXYN 0x8 x y 0x0
  | .orVxVy x y => wordXYN 0x8 x y 0x1
  | .andVxVy x y => wordXYN 0x8 x y 0x2
  | .xorVxVy x y => wordXYN 0x8 x y 0x3
  | .addVxVy x y => wordXYN 0x8 x y 0x4
  | .subVxVy x y => wordXYN 0x8 x y 0x5
  | .shrVxVy x y => wordXYN 0x8 x y 0x6
  | .subnVxVy x y => wordXYN 0x8 x y 0x7
  | .shlVxVy x y => wordXYN 0x8 x y 0xE
  | .sneVxVy x y => wordXYN 0x9 x y 0x0
  | .ldINnn nnn => wordA 0xA nnn
  | .jpV0Nnn nnn => wordA 0xB nnn
  | .rndVxKk x kk => wordXK 0xC x kk
  | .drwVxVyN x y n => wordXYN 0xD x y n
  | .skpVx x => wordXK 0xE x 0x9E
  | .sknpVx x => wordXK 0xE x 0xA1
  | .ldVxDT x => wordXK 0xF x 0x07
  | .ldVxK x => wordXK 0xF x 0x0A
  | .ldDTVx x => wordXK 0xF x 0x15
  | .ldSTVx x => wordXK 0xF x 0x18
  | .addIVx x => wordXK 0xF x 0x1E
  | .ldFVx x => wordXK 0xF x 0x29
  | .ldBVx x => wordXK 0xF x 0x33
  | .ldMemVx x => wordXK 0xF x 0x55
  | .ldVxMem x => wordXK 0xF x 0x65

/-- The bytes of an opcode as memory holds them (R72). -/
def wordBytes (op : Word) : List Byte := [wordHi op, wordLo op]

/-- The two bytes of an instruction, in address order. -/
def encode (i : Instr) : List Byte := wordBytes (encodeWord i)

/-- The instruction that the decoder reads from an instruction whose bits are `w`, numbered as
spec/opcode_table.json numbers them. Every instruction is one 16-bit word, so `nbits` is 16 for every row, and
bit 0 is `op[0]`. -/
def decodeTableWord (nbits w : Nat) : Option Instr :=
  match decode (wordBytes (BitVec.ofNat 16 (w % 2 ^ nbits))) with
  | .ok (i, _) => some i
  | .error _ => none

end Sys2Proof
end

