-- ==== Sys2Proof/Machine/State.lean ====
section
/-! DEFINITION. The state of the core (10_state.md R20-R39), its fatal faults (60_exceptions.md R210), its state
after reset, and the reasons a step can stop. Everything is plain data. -/

namespace Sys2Proof.Machine

/-- `mem` (R30, R50): the bytes that differ from what initialisation without an image leaves
(`Config.resetByte`), by rising address. -/
abbrev Memory := List Host.Cell

/-- One framebuffer row of 64 pixels, `true` for 1 (R32). -/
abbrev FbRow := Vector Bool 64

/-- `FB` (R32): 32 rows, top row first. Row-major element `py*64 + px` is pixel `px` of row `py`. -/
abbrev Framebuffer := Vector FbRow 32

/-- A fatal fault with the information it records (R210). `ia` is the address of the faulting instruction. -/
inductive FatalFault
  /-- code 1, raised by fetch: the pc of the attempted fetch -/
  | inaccessibleMemoryAddress (pc : Word)
  /-- code 2, which no rule raises (R81) -/
  | invalidOpcode (op : Word)
  /-- code 3, raised by 2nnn -/
  | stackOverflow (ia : Word)
  /-- code 4, raised by 00EE -/
  | stackUnderflow (ia : Word)
  /-- code 5, raised by Dxyn, Fx33, Fx55 and Fx65: the masked address is 0xFFF -/
  | inaccessibleDataAddress (ia : Word) (addr : Nat)
  /-- code 6, raised by Fx33 and Fx55: a data write below 0x200 -/
  | fontRegionWrite (ia : Word) (addr : Nat)
  /-- code 7, raised by Ex9E and ExA1: Vx names no key -/
  | invalidKey (ia : Word) (vx : Byte)
  deriving DecidableEq, Repr

/-- The fault codes of R210. -/
def FatalFault.code : FatalFault → Nat
  | .inaccessibleMemoryAddress _ => 1
  | .invalidOpcode _ => 2
  | .stackOverflow _ => 3
  | .stackUnderflow _ => 4
  | .inaccessibleDataAddress _ _ => 5
  | .fontRegionWrite _ _ => 6
  | .invalidKey _ _ => 7

/-- The VM state `run` (R35). -/
inductive RunState
  | running
  /-- waiting for a key release, which goes to register `x` -/
  | waitingForKey (x : RegIx)
  /-- ended by quit -/
  | ended
  /-- stopped by a fatal fault -/
  | faulted (f : FatalFault)
  deriving DecidableEq, Repr

/-- The output record of one iteration (R200). `audio` is an option because an iteration that quits or faults
makes no audio hand-off (R201, R211). -/
structure Output where
  /-- the framebuffer handed over at a frame tick (R222) -/
  render : Option Framebuffer
  /-- the on/off value handed to the audio collaborator (R223) -/
  audio : Option Bool
  /-- the report of an unrecognized opcode (R80, R225) -/
  log : Option Word
  /-- the diagnostic of a fatal fault (R211, R225) -/
  diag : Option FatalFault
  deriving DecidableEq, Repr

/-- No output. -/
def Output.none : Output := { render := .none, audio := .none, log := .none, diag := .none }

/-- The state of the core (R20), then the model's own fields (log entries 1 to 4). -/
structure State where
  /-- general registers V0-VF (R21, R22) -/
  V : Vector Byte 16
  /-- program counter (R23) -/
  pc : Word
  /-- address register (R25) -/
  I : Word
  /-- how many return addresses are held, 0..8 (R26) -/
  sp : Fin 9
  /-- stack slots: slot `j` of 1..8 is element `j - 1` (R27) -/
  stack : Vector Word 8
  /-- delay timer (R28) -/
  DT : Byte
  /-- sound timer (R29) -/
  ST : Byte
  /-- memory (R30) -/
  mem : Memory
  /-- framebuffer (R32) -/
  FB : Framebuffer
  /-- key state, `true` is pressed (R33) -/
  key : Vector Bool 16
  /-- the release latch (R34) -/
  released : Option Key
  /-- VM state (R35) -/
  run : RunState
  /-- frame-tick accumulator (R36) -/
  frameAcc : Nat
  /-- the on/off value last given to the audio collaborator (R37) -/
  audioOn : Bool
  /-- MODEL'S OWN (log entry 4): the parameters of R5, which no step changes -/
  cfg : Config
  /-- MODEL'S OWN (log entry 1): the inputs of the coming iterations, the next one first -/
  inputs : List Input
  /-- MODEL'S OWN (log entry 1): the number of iterations so far; it only indexes the free value
  `Config.hostInput` -/
  iter : Nat
  /-- MODEL'S OWN (log entry 2): the random byte `in.rand` of the iteration in progress -/
  rand : Byte
  /-- MODEL'S OWN (log entry 3): the output record of the latest iteration -/
  out : Output
  deriving DecidableEq, Repr

/-- Why a step stops. Both are safe: R206 enables no iteration in these states. -/
inductive Fault
  /-- raised by `step` in a state whose run was ended by quit (R206); safe -/
  | runEnded
  /-- raised by `step` in a state whose run was stopped by the fatal fault `f` (R206); safe -/
  | runFaulted (f : FatalFault)
  deriving DecidableEq, Repr

/-- Why an instruction has no meaning in the model. -/
inductive Refusal
  /-- raised by an arm of `exec` whose instruction has no meaning yet; safe. No arm raises it. -/
  | notModelled (mnemonic : String)
  deriving DecidableEq, Repr

/-- The result of an instruction or a step. -/
abbrev Result := Host.Outcome State Fault Refusal

/-- The state after initialisation (R39) with the default parameters (R5) and no program image: every byte of
memory is as `Config.resetByte` gives it. -/
def State.reset : State :=
  { V := Vector.replicate 16 0
    pc := 0x200
    I := 0x0000
    sp := 0
    stack := Vector.replicate 8 0x0000
    DT := 0
    ST := 0
    mem := []
    FB := Vector.replicate 32 (Vector.replicate 64 false)
    key := Vector.replicate 16 false
    released := none
    run := .running
    frameAcc := 0
    audioOn := false
    cfg := Params.defaultConfig
    inputs := []
    iter := 0
    rand := 0
    out := Output.none }

end Sys2Proof.Machine
end

