-- ==== Sys2Proof/Machine/Flags.lean ====
section
/-! DEFINITION. The flag computations: everything that an instruction writes into VF as a flag (10_state.md R22). -/

namespace Sys2Proof.Machine

/-- A flag as the byte that VF receives. -/
def flagByte (b : Bool) : Byte := if b then 1 else 0

/-- 8xy4: the carry out of bit 7 (R125). -/
def carryFlag (a b : Byte) : Bool := decide (255 < a.toNat + b.toNat)

/-- 8xy5 and 8xy7: strictly greater, so equal operands give 0 (R126, R128, 90_conflicts.md C2). -/
def greaterFlag (a b : Byte) : Bool := decide (b.toNat < a.toNat)

/-- 8xy6: the bit a right shift by one shifts out (R127). -/
def shrFlag (b : Byte) : Bool := b.getLsbD 0

/-- 8xyE: the bit a left shift by one shifts out (R129). -/
def shlFlag (b : Byte) : Bool := b.getLsbD 7

/-- `Collides(old, new)` of Dxyn (R145). -/
def collides (rule : CollisionRule) (old new : Bool) : Bool :=
  match rule with
  | .remainsSet => old && new
  | .erased => old && !new

end Sys2Proof.Machine
end

