-- ==== Sys2Proof/Machine/Operands.lean ====
section
/-! DEFINITION. The operand forms: how an operand field or a register becomes the value an instruction uses
(00_scope.md R5-R7, 30_encoding.md R74). -/

namespace Sys2Proof.Machine

/-- `zext_16(nnn)` (R74). -/
def zextNnn (nnn : BitVec 12) : Word := nnn.setWidth 16

/-- `zext_16` of a byte (R74). -/
def zextByte (b : Byte) : Word := b.setWidth 16

/-- V0, which Bnnn reads (R142). -/
def v0 : RegIx := 0x0

/-- VF, the flag register (R22). -/
def vF : RegIx := 0xF

/-- `V[x]` (R21). -/
def State.getV (s : State) (x : RegIx) : Byte := s.V[x]

/-- `EA(k) = u16(I + k) & 0x0FFF` (R55). -/
def State.ea (s : State) (k : Nat) : Nat := ((s.I + BitVec.ofNat 16 k) &&& 0x0FFF).toNat

/-- `EA(0)` .. `EA(n-1)`, in that order (R56). -/
def State.eas (s : State) (n : Nat) : List Nat := (List.range n).map s.ea

/-- The key that a register value names, if it names one (R160, R161). -/
def keyOf (b : Byte) : Option Key := if h : b.toNat < 16 then some ⟨b.toNat, h⟩ else none

/-- The address of the font glyph of a value's low nibble (R167). -/
def glyphBase (b : Byte) : Word := zextByte (b &&& 0x0F) * 5

/-- The start column of a sprite, `Vx mod 64` (R144). -/
def startColumn (b : Byte) : Nat := b.toNat % 64

/-- The start row of a sprite, `Vy mod 32` (R144). -/
def startRow (b : Byte) : Nat := b.toNat % 32

/-- The hundreds digit (R168). -/
def hundreds (b : Byte) : Byte := BitVec.ofNat 8 (b.toNat / 100)

/-- The tens digit (R168). -/
def tens (b : Byte) : Byte := BitVec.ofNat 8 (b.toNat / 10 % 10)

/-- The ones digit (R168). -/
def ones (b : Byte) : Byte := BitVec.ofNat 8 (b.toNat % 10)

end Sys2Proof.Machine
end

