-- ==== Sys2Proof/Machine/Ops.lean ====
section
/-! DEFINITION. The named operations over memory, registers, stack and framebuffer, and taking a fatal fault.
Every meaning is written over these. -/

namespace Sys2Proof.Machine

/-- A change made to the next state, if there is one. -/
def mapNext (f : State → State) (r : Result) : Result :=
  match r with
  | .next t => .next (f t)
  | .fault e => .fault e
  | .refused e => .refused e

/-! ### Memory (20_memory.md) -/

/-- The byte at `a`, where an address without a cell reads as `d a`. -/
def Memory.read (d : Nat → Byte) (m : Memory) (a : Nat) : Byte :=
  match m with
  | [] => d a
  | (b, v) :: rest => if b = a then v else Memory.read d rest a

/-- The cells without the one of address `a`. -/
def Memory.erase (m : Memory) (a : Nat) : Memory := m.filter (fun c => decide (c.1 ≠ a))

/-- A cell put before the first cell of a higher address. -/
def Memory.insert (m : Memory) (a : Nat) (v : Byte) : Memory :=
  match m with
  | [] => [(a, v)]
  | c :: rest => if a < c.1 then (a, v) :: c :: rest else c :: Memory.insert rest a v

/-- Memory with byte `v` at `a` (R53). A byte equal to what an unlisted address reads as gets no cell. -/
def Memory.write (d : Nat → Byte) (m : Memory) (a : Nat) (v : Byte) : Memory :=
  if v = d a then m.erase a else (m.erase a).insert a v

/-- The canonical form: addresses strictly rising, all of them in `mem` (R50), no cell equal to what its address
reads as unlisted. -/
abbrev Memory.wf (d : Nat → Byte) (m : Memory) : Prop :=
  m.Pairwise (fun c c' => c.1 < c'.1) ∧ ∀ c ∈ m, c.1 < Params.memSize ∧ c.2 ≠ d c.1

/-- The memory that holds an image from `base` on and is as at reset elsewhere (R240, R241). -/
def Memory.ofImage (d : Nat → Byte) (base : Nat) (image : List Byte) : Memory :=
  match image with
  | [] => []
  | b :: rest =>
    if b = d base then Memory.ofImage d (base + 1) rest
    else (base, b) :: Memory.ofImage d (base + 1) rest

/-- The byte of memory at `a`. -/
def State.byteAt (s : State) (a : Nat) : Byte := s.mem.read s.cfg.resetByte a

/-- `mem[a] <- v` (R53), without the checks. -/
def State.storeByte (s : State) (a : Nat) (v : Byte) : State :=
  { s with mem := s.mem.write s.cfg.resetByte a v }

/-! ### Registers -/

/-- `V[x] <- b` (R21). No register is hardwired. -/
def State.setV (s : State) (x : RegIx) (b : Byte) : State := { s with V := s.V.set x b }

/-- `VF <- flag` (R22). -/
def State.setFlag (s : State) (flag : Bool) : State := s.setV vF (flagByte flag)

/-- `pc <- target` (R23). -/
def State.setPc (s : State) (target : Word) : State := { s with pc := target }

/-- `I <- v` (R25). -/
def State.setI (s : State) (v : Word) : State := { s with I := v }

/-- `DT <- b` (R28). -/
def State.setDT (s : State) (b : Byte) : State := { s with DT := b }

/-- `ST <- b` (R29). -/
def State.setST (s : State) (b : Byte) : State := { s with ST := b }

/-- `FB <- f` (R32). -/
def State.setFB (s : State) (f : Framebuffer) : State := { s with FB := f }

/-- `released <- r` (R34). -/
def State.setReleased (s : State) (r : Option Key) : State := { s with released := r }

/-- `run <- r` (R35). -/
def State.setRun (s : State) (r : RunState) : State := { s with run := r }

/-- `skip` (R78): step over one 2-byte word when the condition holds. -/
def State.skipIf (s : State) (c : Bool) : State := if c then s.setPc (s.pc + 2) else s

/-- `ia`, the address the executing instruction was fetched from: `pc` is `ia + 2` while it executes (R71). -/
def State.ia (s : State) : Word := s.pc - 2

/-- The result of a flag-setting ALU instruction: Vx first, VF second, so the flag stays when x = 0xF (R120). -/
def State.setResultAndFlag (s : State) (x : RegIx) (result : Byte) (flag : Bool) : State :=
  (s.setV x result).setFlag flag

/-! ### Taking a fatal fault (60_exceptions.md R211)

There is no handler, no vector and no saved register, and nothing returns from a fault (R214). -/

/-- `raise Fault(f)`: the run becomes `Faulted` and the diagnostic goes out. Nothing else changes, so an execute
fault leaves `pc` at `ia + 2` and a fetch fault leaves it where it was. -/
def State.raise (s : State) (f : FatalFault) : Result :=
  .next { s with run := .faulted f, out := { s.out with diag := some f } }

/-- The state `t` if no check failed, and otherwise the fault that did, taken from `s`: a faulting instruction
writes nothing of its own (R211). -/
def State.unlessFault (s : State) (check : Option FatalFault) (t : State) : Result :=
  match check with
  | some f => s.raise f
  | none => .next t

/-! ### Data access checks (R52, R53) -/

/-- The check of `MemRead(a, 1)` (R52). -/
def State.readFault (s : State) (a : Nat) : Option FatalFault :=
  if Params.memSize ≤ a then some (.inaccessibleDataAddress s.ia a) else none

/-- The checks of `MemWrite(a, 1, v)`, in their order (R53). -/
def State.writeFault (s : State) (a : Nat) : Option FatalFault :=
  if Params.memSize ≤ a then some (.inaccessibleDataAddress s.ia a)
  else if a < Params.fontEnd then some (.fontRegionWrite s.ia a)
  else none

/-- The first failing check of `EA(0)` .. `EA(n-1)` for a read (R212). -/
def State.readFaults (s : State) (n : Nat) : Option FatalFault := (s.eas n).findSome? s.readFault

/-- The first failing check of `EA(0)` .. `EA(n-1)` for a write (R212). -/
def State.writeFaults (s : State) (n : Nat) : Option FatalFault := (s.eas n).findSome? s.writeFault

/-- The bytes at `EA(0)` .. `EA(n-1)`. -/
def State.dataBytes (s : State) (n : Nat) : List Byte := (s.eas n).map s.byteAt

/-- Bytes written at their addresses, in the order of the list (R168, R169). The checks stand before it. -/
def State.storeAll (s : State) (cells : List (Nat × Byte)) : State :=
  match cells with
  | [] => s
  | (a, b) :: rest => (s.storeByte a b).storeAll rest

/-- The bytes `bs` written at `EA(0)`, `EA(1)`, ..., in that order. -/
def State.storeData (s : State) (bs : List Byte) : State := s.storeAll ((s.eas bs.length).zip bs)

/-- V0 .. Vx, in that order. -/
def State.regsUpTo (s : State) (x : RegIx) : List Byte := s.V.toList.take (x.val + 1)

/-- `V[k] <- mem[EA(k)]` for k in 0..x, every byte read before any register is written (R170). -/
def State.loadRegs (s : State) (x : RegIx) : State :=
  { s with V := Vector.ofFn fun k => if k ≤ x then s.byteAt (s.ea k.val) else s.getV k }

/-! ### Stack (10_state.md R26, R27) -/

/-- Push a return address and go to the target, or `StackOverflow` when 8 are held (R103). Slot `sp + 1` is
element `sp`. -/
def State.callTo (s : State) (target : Word) : Result :=
  if h : s.sp.val < 8 then
    .next { s with sp := ⟨s.sp.val + 1, by omega⟩, stack := s.stack.set s.sp.val s.pc, pc := target }
  else s.raise (.stackOverflow s.ia)

/-- Pop a return address into `pc`, or `StackUnderflow` when none is held (R101). The slot keeps its value. -/
def State.popPc (s : State) : Result :=
  if h : 0 < s.sp.val then
    .next { s with pc := s.stack[s.sp.val - 1], sp := ⟨s.sp.val - 1, by omega⟩ }
  else s.raise (.stackUnderflow s.ia)

/-! ### Framebuffer (10_state.md R32, 42_index_random_draw.md R144-R146) -/

/-- The cleared framebuffer (R100). -/
def clearFB : Framebuffer := Vector.replicate 32 (Vector.replicate 64 false)

/-- `FB[px, py]`, and 0 outside the bitmap. -/
def Framebuffer.pixel (f : Framebuffer) (px py : Nat) : Bool :=
  if h : py < 32 ∧ px < 64 then f[py][px] else false

/-- The framebuffer as its 2048 row-major elements (R32, R222). -/
def Framebuffer.elements (f : Framebuffer) : List Bool := f.toList.flatMap Vector.toList

/-- Bit `c` of a sprite byte, `c = 0` the most significant (R144, R146). -/
def spriteBit (byte : Byte) (c : Nat) : Bool := byte.getLsbD (7 - c)

/-- Column `c` of the 8-column box in one row, from start column `x0`: XOR and the collision flag, clipped at
column 63 (R144). -/
def drawBit (rule : CollisionRule) (byte : Byte) (x0 : Nat) (st : FbRow × Bool) (c : Nat) : FbRow × Bool :=
  if h : x0 + c < 64 then
    let old := st.1[x0 + c]
    let new := old ^^ spriteBit byte c
    (st.1.set (x0 + c) new, st.2 || collides rule old new)
  else st

/-- One sprite row: its eight columns from the left (R144). -/
def drawRow (rule : CollisionRule) (byte : Byte) (x0 : Nat) (row : FbRow) (hit : Bool) : FbRow × Bool :=
  [0, 1, 2, 3, 4, 5, 6, 7].foldl (drawBit rule byte x0) (row, hit)

/-- The sprite rows `bytes`, the first at row `py`, clipped at row 31 (R144). -/
def drawRows (rule : CollisionRule) (x0 py : Nat) (f : Framebuffer) (hit : Bool) (bytes : List Byte) :
    Framebuffer × Bool :=
  match bytes with
  | [] => (f, hit)
  | b :: rest =>
    if h : py < 32 then
      let r := drawRow rule b x0 f[py] hit
      drawRows rule x0 (py + 1) (f.set py r.1) r.2 rest
    else (f, hit)

/-- The framebuffer and the collision flag after a sprite is drawn at start column `x0`, start row `y0` (R144). -/
def drawSprite (rule : CollisionRule) (x0 y0 : Nat) (f : Framebuffer) (bytes : List Byte) : Framebuffer × Bool :=
  drawRows rule x0 y0 f false bytes

/-! ### Keys -/

/-- Skip when the pressed state of the key that `b` names is `want`, or `InvalidKey` when it names none
(R160, R161). -/
def State.skipIfKey (s : State) (b : Byte) (want : Bool) : Result :=
  match keyOf b with
  | some k => .next (s.skipIf (s.key[k] == want))
  | none => s.raise (.invalidKey s.ia b)

end Sys2Proof.Machine
end

