-- ==== Sys2Proof/Machine/Alu.lean ====
section
/-! DEFINITION. Family 8 (41_alu.md R120-R130). -/

namespace Sys2Proof.Machine

/-- 8xy0 (R121). -/
def execLdVxVy (x y : RegIx) (s : State) : Result := .next (s.setV x (s.getV y))

/-- 8xy1 (R122). -/
def execOrVxVy (x y : RegIx) (s : State) : Result := .next (s.setV x (s.getV x ||| s.getV y))

/-- 8xy2 (R123). -/
def execAndVxVy (x y : RegIx) (s : State) : Result := .next (s.setV x (s.getV x &&& s.getV y))

/-- 8xy3 (R124). -/
def execXorVxVy (x y : RegIx) (s : State) : Result := .next (s.setV x (s.getV x ^^^ s.getV y))

/-- 8xy4 (R125). -/
def execAddVxVy (x y : RegIx) (s : State) : Result :=
  .next (s.setResultAndFlag x (s.getV x + s.getV y) (carryFlag (s.getV x) (s.getV y)))

/-- 8xy5 (R126). -/
def execSubVxVy (x y : RegIx) (s : State) : Result :=
  .next (s.setResultAndFlag x (s.getV x - s.getV y) (greaterFlag (s.getV x) (s.getV y)))

/-- 8xy6 (R127): the shifted value is Vy. -/
def execShrVxVy (x y : RegIx) (s : State) : Result :=
  .next (s.setResultAndFlag x (s.getV y >>> 1) (shrFlag (s.getV y)))

/-- 8xy7 (R128). -/
def execSubnVxVy (x y : RegIx) (s : State) : Result :=
  .next (s.setResultAndFlag x (s.getV y - s.getV x) (greaterFlag (s.getV y) (s.getV x)))

/-- 8xyE (R129): the shifted value is Vy. -/
def execShlVxVy (x y : RegIx) (s : State) : Result :=
  .next (s.setResultAndFlag x (s.getV y <<< 1) (shlFlag (s.getV y)))

end Sys2Proof.Machine
end

