-- ==== Sys2Proof/Machine/Flow.lean ====
section
/-! DEFINITION. Families 0-7 (40_flow_and_immediates.md R100-R109). In every meaning `pc` already holds `ia + 2`. -/

namespace Sys2Proof.Machine

/-- 00E0 (R100). -/
def execCls (s : State) : Result := .next (s.setFB clearFB)

/-- 00EE (R101). -/
def execRet (s : State) : Result := s.popPc

/-- 1nnn (R102). -/
def execJp (nnn : BitVec 12) (s : State) : Result := .next (s.setPc (zextNnn nnn))

/-- 2nnn (R103). -/
def execCall (nnn : BitVec 12) (s : State) : Result := s.callTo (zextNnn nnn)

/-- 3xkk (R104). -/
def execSeVxKk (x : RegIx) (kk : Byte) (s : State) : Result := .next (s.skipIf (s.getV x == kk))

/-- 4xkk (R105). -/
def execSneVxKk (x : RegIx) (kk : Byte) (s : State) : Result := .next (s.skipIf (s.getV x != kk))

/-- 5xy0 (R106). -/
def execSeVxVy (x y : RegIx) (s : State) : Result := .next (s.skipIf (s.getV x == s.getV y))

/-- 6xkk (R107). -/
def execLdVxKk (x : RegIx) (kk : Byte) (s : State) : Result := .next (s.setV x kk)

/-- 7xkk (R108): no flag. -/
def execAddVxKk (x : RegIx) (kk : Byte) (s : State) : Result := .next (s.setV x (s.getV x + kk))

end Sys2Proof.Machine
end

