-- ==== Sys2Proof/Machine/IndexRandomDraw.lean ====
section
/-! DEFINITION. Families 9-D (42_index_random_draw.md R140-R146). -/

namespace Sys2Proof.Machine

/-- 9xy0 (R140). -/
def execSneVxVy (x y : RegIx) (s : State) : Result := .next (s.skipIf (s.getV x != s.getV y))

/-- Annn (R141). -/
def execLdINnn (nnn : BitVec 12) (s : State) : Result := .next (s.setI (zextNnn nnn))

/-- Bnnn (R142): the sum is not masked. -/
def execJpV0Nnn (nnn : BitVec 12) (s : State) : Result :=
  .next (s.setPc (zextByte (s.getV v0) + zextNnn nnn))

/-- Cxkk (R143): `rand` is the iteration's random byte (R224). -/
def execRndVxKk (x : RegIx) (kk : Byte) (s : State) : Result := .next (s.setV x (s.rand &&& kk))

/-- Dxyn (R144): all `n` sprite bytes are read first, then the pixels are written, then VF. -/
def execDrwVxVyN (x y : RegIx) (n : BitVec 4) (s : State) : Result :=
  let drawn := drawSprite s.cfg.collision (startColumn (s.getV x)) (startRow (s.getV y)) s.FB (s.dataBytes n.toNat)
  s.unlessFault (s.readFaults n.toNat) ((s.setFB drawn.1).setFlag drawn.2)

end Sys2Proof.Machine
end

