-- ==== Sys2Proof/Machine/KeysTimersMemory.lean ====
section
/-! DEFINITION. Families E and F (43_keys_timers_memory.md R160-R170). -/

namespace Sys2Proof.Machine

/-- Ex9E (R160). -/
def execSkpVx (x : RegIx) (s : State) : Result := s.skipIfKey (s.getV x) true

/-- ExA1 (R161). -/
def execSknpVx (x : RegIx) (s : State) : Result := s.skipIfKey (s.getV x) false

/-- Fx07 (R162). -/
def execLdVxDT (x : RegIx) (s : State) : Result := .next (s.setV x s.DT)

/-- Fx0A (R163), the execute part; the wait step of Scheduler.lean does the rest. -/
def execLdVxK (x : RegIx) (s : State) : Result := .next ((s.setReleased none).setRun (.waitingForKey x))

/-- Fx15 (R164). -/
def execLdDTVx (x : RegIx) (s : State) : Result := .next (s.setDT (s.getV x))

/-- Fx18 (R165). -/
def execLdSTVx (x : RegIx) (s : State) : Result := .next (s.setST (s.getV x))

/-- Fx1E (R166): modulo 65536, no flag. -/
def execAddIVx (x : RegIx) (s : State) : Result := .next (s.setI (s.I + zextByte (s.getV x)))

/-- Fx29 (R167). -/
def execLdFVx (x : RegIx) (s : State) : Result := .next (s.setI (glyphBase (s.getV x)))

/-- Fx33 (R168): the three addresses are checked before any write. -/
def execLdBVx (x : RegIx) (s : State) : Result :=
  s.unlessFault (s.writeFaults 3)
    (s.storeData [hundreds (s.getV x), tens (s.getV x), ones (s.getV x)])

/-- Fx55 (R169): the addresses are checked before any write, and I keeps its value. -/
def execLdMemVx (x : RegIx) (s : State) : Result :=
  s.unlessFault (s.writeFaults (x.val + 1)) (s.storeData (s.regsUpTo x))

/-- Fx65 (R170): the addresses are checked before any register is written, and I keeps its value. -/
def execLdVxMem (x : RegIx) (s : State) : Result :=
  s.unlessFault (s.readFaults (x.val + 1)) (s.loadRegs x)

end Sys2Proof.Machine
end

