-- ==== Sys2Proof/Machine/Scheduler.lean ====
section
/-! DEFINITION. The scheduler iteration (60_exceptions.md R200-R225) with the fetch (30_encoding.md R71), and initialisation
with a program image (70_reset_and_hazards.md R240). -/

namespace Sys2Proof.Machine

/-! ### Inputs (R200, R201) -/

/-- The input record of the coming iteration: the first of the script, or the free value (log entry 1). -/
def State.nextInput (s : State) : Input :=
  match s.inputs with
  | inp :: _ => inp
  | [] => Config.hostInput s.iter

/-- The iteration begins: its input is taken from the script and its output record is empty. -/
def State.beginIteration (s : State) : State :=
  { s with inputs := s.inputs.tail, iter := s.iter + 1, out := Output.none }

/-- Step 1 with a quit (R201): the run ends, and no other step of the iteration runs. -/
def State.quit (s : State) : State := s.setRun .ended

/-- Step 1 without a quit (R201, R221): the key state is replaced and a reported release is latched. The random
byte of the iteration is kept for step 2 (R224). -/
def State.poll (s : State) (inp : Input) : State :=
  { s with key := inp.keys
           released := match inp.release with
             | some k => some k
             | none => s.released
           rand := inp.rand }

/-! ### Step 2: wait or execute (R202) -/

/-- The wait step of `WaitingForKey(x)` (R219). -/
def State.waitStep (s : State) (x : RegIx) : State :=
  match s.released with
  | some k => ((s.setV x (BitVec.ofNat 8 k.val)).setReleased none).setRun .running
  | none => s

/-- The window check on `pc` and on `pc + 2`, which does not wrap (R71). -/
def State.fetchAllowed (s : State) : Bool :=
  decide (Params.fetchLo ≤ s.pc.toNat ∧ s.pc.toNat < Params.fetchHi) &&
  decide (Params.fetchLo ≤ s.pc.toNat + 2 ∧ s.pc.toNat + 2 < Params.fetchHi)

/-- The bytes from `pc` on that an instruction takes (R54, R70, R72). -/
def State.fetchBytes (s : State) : List Byte := [s.byteAt s.pc.toNat, s.byteAt (s.pc.toNat + 1)]

/-- The opcode at `pc`, most significant byte first (R57, R72). -/
def State.fetchWord (s : State) : Word := wordOfBytes (s.byteAt s.pc.toNat) (s.byteAt (s.pc.toNat + 1))

/-- `pc <- pc + 2`, the advance of a fetch (R71). -/
def State.advance (s : State) : State := s.setPc (s.pc + 2)

/-- An unrecognized opcode is reported and does nothing else (R80). -/
def State.logUnrecognized (s : State) (op : Word) : State := { s with out := { s.out with log := some op } }

/-- What step 2 does in `Running`: a fetch fault, an instruction to execute, or an unrecognized opcode. -/
inductive Fetched
  | fault (f : FatalFault)
  | instr (i : Instr)
  | unrecognized (op : Word)
  deriving DecidableEq, Repr

/-- Fetch and decode (R71, R75). The fault records the pc of the attempted fetch (R210). -/
def State.fetched (s : State) : Fetched :=
  if s.fetchAllowed then
    match decode s.fetchBytes with
    | .ok (i, _) => .instr i
    | .error _ => .unrecognized s.fetchWord
  else .fault (.inaccessibleMemoryAddress s.pc)

/-! ### Steps 3 and 4: frame tick and audio (R203, R204) -/

/-- A timer one lower, and 0 at 0 (R203). -/
def timerDown (b : Byte) : Byte := if 0 < b.toNat then b - 1 else b

/-- What a frame tick does (R203). -/
def State.tick (s : State) : State :=
  { s with DT := timerDown s.DT, ST := timerDown s.ST, frameAcc := 0, out := { s.out with render := some s.FB } }

/-- Step 3 (R203) under the schedule in force (R207); `due` is `in.frame_due`. Under `hostClock` the accumulator is
the host's (log entry 7). -/
def State.frameStep (s : State) (due : Bool) : State :=
  match s.cfg.schedule with
  | .hostClock => if due then s.tick else s
  | .virtualClock n =>
    if n ≤ s.frameAcc + 1 then s.tick else { s with frameAcc := s.frameAcc + 1 }

/-- Step 4 (R204, R223): `ST != 0` is handed over. -/
def State.audioStep (s : State) : State :=
  { s with audioOn := s.ST != 0, out := { s.out with audio := some (s.ST != 0) } }

/-- Steps 3 and 4 after step 2. They do not run in an iteration that faulted (R211). -/
def State.finishIteration (s : State) (due : Bool) : State :=
  match s.run with
  | .faulted _ => s
  | _ => (s.frameStep due).audioStep

/-! ### The iteration (R200) -/

/-- Step 2 in `Running`: fetch, decode and execute exactly one instruction (R202). -/
def executeNext (s : State) : Result :=
  match s.fetched with
  | .fault f => s.raise f
  | .instr i => exec i s.advance
  | .unrecognized op => .next (s.advance.logUnrecognized op)

/-- The iteration with `body` as its step 2 (R200). -/
def iterate (body : State → Result) (s : State) : Result :=
  if s.nextInput.quit then .next s.beginIteration.quit
  else mapNext (fun t => t.finishIteration s.nextInput.frameDue) (body (s.beginIteration.poll s.nextInput))

/-! ### Initialisation and program load (R240, R243) -/

/-- The machine that initialisation makes from parameters and a program image, or none when the image is too long
and the load is rejected. -/
def State.init (c : Config) (image : List Byte) : Option State :=
  if imageFits image then
    some { State.reset with cfg := c, mem := Memory.ofImage c.resetByte Params.progBase image }
  else none

/-- The state with a script of inputs for its coming iterations (log entry 1). -/
def State.withInputs (s : State) (script : List Input) : State := { s with inputs := script }

/-- The state changed so that its next step fetches and executes the opcode `op` (log entry 8): `op` stands at
`pc`, which is moved to the entry point if it is outside the fetch window; the machine is running; and the next
input is no quit. -/
def State.placeWord (s : State) (op : Word) : State :=
  let pc := if s.fetchAllowed then s.pc else BitVec.ofNat 16 Params.progBase
  let inp : Input := match s.inputs with
    | i :: _ => { i with quit := false }
    | [] => Input.quiet
  let t : State := { s with pc := pc, run := .running, inputs := inp :: s.inputs.tail }
  (t.storeByte pc.toNat (wordHi op)).storeByte (pc.toNat + 1) (wordLo op)

end Sys2Proof.Machine
end

