-- ==== Sys2Proof/Machine/Step.lean ====
section
/-! DEFINITION. One scheduler iteration, which is the machine's step (60_exceptions.md R200). -/

namespace Sys2Proof.Machine

/-- One iteration. None is enabled in `Ended` or `Faulted` (R206). -/
def step (s : State) : Host.Outcome State Fault Refusal :=
  match s.run with
  | .running => iterate executeNext s
  | .waitingForKey x => iterate (fun t => .next (t.waitStep x)) s
  | .ended => .fault .runEnded
  | .faulted f => .fault (.runFaulted f)

/-- The state whose next step fetches and runs the instruction with the bits `w` (log entry 8). Every instruction
has 16 bits. -/
def State.withFetchWord (s : State) (nbits w : Nat) : State := s.placeWord (BitVec.ofNat 16 (w % 2 ^ nbits))

end Sys2Proof.Machine
end

