-- ==== Sys2Proof/Safety.lean ====
section
/-! DEFINITION. The terms that statements about the machine use: which parts of the state a change leaves alone, which
iterations are enabled, what step 2 of an iteration does, and the invariant of a run. -/

namespace Sys2Proof.Machine

/-- The parts of `State`. -/
inductive Part
  | V | pc | I | sp | stack | DT | ST | mem | FB | key | released | run | frameAcc | audioOn
  | cfg | inputs | iter | rand | out
  deriving DecidableEq, Repr

/-- A part is the same in both states. Memory is compared byte by byte, as the machine reads it. -/
def Unchanged (p : Part) (s t : State) : Prop :=
  match p with
  | .V => ∀ r, t.getV r = s.getV r
  | .pc => t.pc = s.pc
  | .I => t.I = s.I
  | .sp => t.sp = s.sp
  | .stack => t.stack = s.stack
  | .DT => t.DT = s.DT
  | .ST => t.ST = s.ST
  | .mem => ∀ a, t.byteAt a = s.byteAt a
  | .FB => t.FB = s.FB
  | .key => t.key = s.key
  | .released => t.released = s.released
  | .run => t.run = s.run
  | .frameAcc => t.frameAcc = s.frameAcc
  | .audioOn => t.audioOn = s.audioOn
  | .cfg => t.cfg = s.cfg
  | .inputs => t.inputs = s.inputs
  | .iter => t.iter = s.iter
  | .rand => t.rand = s.rand
  | .out => t.out = s.out

/-- Every part but those of `written` is the same in `t` as in `s`. -/
def Frame (written : List Part) (s t : State) : Prop := ∀ p, p ∉ written → Unchanged p s t

/-- Every general register but those of `written` is the same in `t` as in `s`. -/
def RegFrame (written : List RegIx) (s t : State) : Prop := ∀ r, r ∉ written → t.getV r = s.getV r

/-- Every byte but those at the addresses of `written` reads the same in `t` as in `s`. -/
def MemFrame (written : List Nat) (s t : State) : Prop := ∀ a, a ∉ written → t.byteAt a = s.byteAt a

/-- The run was stopped by a fatal fault. -/
def State.Faulted (s : State) : Prop := ∃ f, s.run = .faulted f

/-- An iteration is enabled (R200). -/
def State.Enabled (s : State) : Prop := s.run = .running ∨ ∃ x, s.run = .waitingForKey x

/-- The state in which step 2 of the coming iteration runs: its input is polled (R201). -/
def State.polled (s : State) : State := s.beginIteration.poll s.nextInput

/-- `u` is the state after step 2 of the coming iteration, which has no quit (R202). -/
def AfterStepTwo (s u : State) : Prop :=
  s.nextInput.quit = false ∧
  ((s.run = .running ∧ executeNext s.polled = .next u) ∨
    ∃ x, s.run = .waitingForKey x ∧ u = s.polled.waitStep x)

/-- Whether the frame tick of the coming iteration takes place if its step 3 runs in state `u` (R207). -/
def TickDue (s u : State) : Prop :=
  match u.cfg.schedule with
  | .hostClock => s.nextInput.frameDue = true
  | .virtualClock n => n ≤ u.frameAcc + 1

/-- `s` with the fatal fault `f` taken (R211): nothing but `run` and the diagnostic differs. -/
def State.withFault (s : State) (f : FatalFault) : State :=
  { s with run := .faulted f, out := { s.out with diag := some f } }

/-- What holds of the state between iterations. -/
structure State.Inv (s : State) : Prop where
  /-- memory is in canonical form and inside the address space (R50) -/
  memWf : s.mem.wf s.cfg.resetByte
  /-- no cell lies in the font region, so it still reads as initialisation left it (R51, R53) -/
  fontIntact : ∀ c ∈ s.mem, Params.fontEnd ≤ c.1
  /-- the accumulator stays below FRAME_ITER, and at 0 under the host clock (R207) -/
  frameAccBound : match s.cfg.schedule with
    | .hostClock => s.frameAcc = 0
    | .virtualClock n => s.frameAcc < n
  /-- `audio_on` is `ST != 0` (R37, R204) -/
  audioFollows : s.audioOn = (s.ST != 0)
  /-- a fault is diagnosed exactly in the state it leaves (R211) -/
  diagIff : ∀ f, s.run = .faulted f ↔ s.out.diag = some f

end Sys2Proof.Machine
end

