-- ==== Sys2Proof/Certificates/Slice0/Obligations.lean ====
section
/-! DEFINITION. The statements about the model. `exec i s` runs instruction `i` in the state after its fetch, so `s.pc`
is `ia + 2` in every statement about `exec`. A statement is about every state, whatever its parameters, script of
inputs and free values. -/

open Sys2Proof Sys2Proof.Machine

/-! ### Decoding and encoding (30_encoding.md) -/

/-- Words written out from the patterns of R76, and two unrecognized ones of R79 (that the word 0x0000 is unrecognized,
because family 0 matches the whole word, is the spec's decision D9, log entry 18). -/
def Obligations.SampleWordsDecode : Prop :=
  decodeWord 0x00E0 = .ok .cls ∧ decodeWord 0x00EE = .ok .ret ∧
  decodeWord 0x1ABC = .ok (.jp 0xABC) ∧ decodeWord 0x2300 = .ok (.call 0x300) ∧
  decodeWord 0x6A7F = .ok (.ldVxKk 0xA 0x7F) ∧ decodeWord 0x5120 = .ok (.seVxVy 1 2) ∧
  decodeWord 0x812E = .ok (.shlVxVy 1 2) ∧ decodeWord 0x9120 = .ok (.sneVxVy 1 2) ∧
  decodeWord 0xA123 = .ok (.ldINnn 0x123) ∧ decodeWord 0xD015 = .ok (.drwVxVyN 0 1 5) ∧
  decodeWord 0xE29E = .ok (.skpVx 2) ∧ decodeWord 0xF255 = .ok (.ldMemVx 2) ∧
  decodeWord 0x0000 = .error .family0 ∧ decodeWord 0x8128 = .error .family8

/-- Decoding the bytes of an instruction gives it back, with every operand at every value, and leaves the bytes that
follow. -/
def Obligations.DecodeOfEncodeIsTheInstruction : Prop :=
  ∀ (i : Instr) (rest : List Byte), decode (encode i ++ rest) = .ok (i, rest)

/-- A word that decodes is the encoding of what it decodes to: no two words mean the same instruction, and no bit of a
word is ignored (in families 0, 5 and 9 that is the spec's decision D9, log entry 18). -/
def Obligations.DecodedWordEncodesBack : Prop :=
  ∀ (w : Word) (i : Instr), decodeWord w = .ok i → encodeWord i = w

/-- The unrecognized words are those of R79's table, family by family, and no others (in families 0, 5 and 9 by the spec's
decision D9, log entry 18). -/
def Obligations.UnrecognizedWordsAreThoseListed : Prop :=
  ∀ w : Word, (∃ r, decodeWord w = .error r) ↔
    (w.toNat / 0x1000 = 0x0 ∧ w.toNat ≠ 0x00E0 ∧ w.toNat ≠ 0x00EE) ∨
    (w.toNat / 0x1000 = 0x5 ∧ w.toNat % 16 ≠ 0) ∨
    (w.toNat / 0x1000 = 0x8 ∧ w.toNat % 16 ∈ [0x8, 0x9, 0xA, 0xB, 0xC, 0xD, 0xF]) ∨
    (w.toNat / 0x1000 = 0x9 ∧ w.toNat % 16 ≠ 0) ∨
    (w.toNat / 0x1000 = 0xE ∧ w.toNat % 256 ∉ [0x9E, 0xA1]) ∨
    (w.toNat / 0x1000 = 0xF ∧ w.toNat % 256 ∉ [0x07, 0x0A, 0x15, 0x18, 0x1E, 0x29, 0x33, 0x55, 0x65])

/-! ### The step: fetch, wait, end of the run (30_encoding.md R71, 60_exceptions.md) -/

/-- In `Running`, with no quit and `pc` inside the fetch window, a step whose bytes at `pc` decode to `i` is `exec i` in
the polled state with `pc` moved past the word, followed by steps 3 and 4 of the iteration. -/
def Obligations.StepRunsTheDecodedInstruction : Prop :=
  ∀ (s : State) (i : Instr) (rest : List Byte),
    s.run = .running → s.nextInput.quit = false → 0x200 ≤ s.pc.toNat → s.pc.toNat + 2 < 0xFFE →
    decode [s.byteAt s.pc.toNat, s.byteAt (s.pc.toNat + 1)] = .ok (i, rest) →
    step s = mapNext (fun t => t.finishIteration s.nextInput.frameDue) (exec i (s.polled.setPc (s.pc + 2)))

/-- The opcode is big-endian: the byte at `pc` is `op[15:8]` and the byte at `pc + 1` is `op[7:0]`. Inside the window,
what step 2 does is what that word decodes to. -/
def Obligations.FetchedOpcodeIsBigEndian : Prop :=
  ∀ (s : State) (op : Word), 0x200 ≤ s.pc.toNat → s.pc.toNat + 2 < 0xFFE →
    op.toNat = (s.byteAt s.pc.toNat).toNat * 256 + (s.byteAt (s.pc.toNat + 1)).toNat →
    (∀ i, decodeWord op = .ok i → s.fetched = .instr i) ∧
    (∀ r, decodeWord op = .error r → s.fetched = .unrecognized op)

/-- An unrecognized opcode is reported, advances `pc` by 2 and does nothing else: the parts that the rest of the
iteration does not write are unchanged. -/
def Obligations.UnrecognizedOpcodeIsALoggedNoOp : Prop :=
  ∀ (s : State) (r : Reject) (op : Word),
    s.run = .running → s.nextInput.quit = false → 0x200 ≤ s.pc.toNat → s.pc.toNat + 2 < 0xFFE →
    op.toNat = (s.byteAt s.pc.toNat).toNat * 256 + (s.byteAt (s.pc.toNat + 1)).toNat →
    decodeWord op = .error r →
    ∃ u, AfterStepTwo s u ∧ u.pc = s.pc + 2 ∧ u.out.log = some op ∧ u.out.diag = none ∧
      Frame [.pc, .out] s.polled u ∧
    ∃ t, step s = .next t ∧ t.pc = s.pc + 2 ∧ t.out.log = some op ∧ t.out.diag = none ∧
      Frame [.pc, .key, .released, .rand, .inputs, .iter, .out, .DT, .ST, .frameAcc, .audioOn] s t

/-- A fetch with `pc` outside 0x200..0xFFB ends the run with `InaccessibleMemoryAddress`, which records `pc`. `pc` is
unchanged, nothing is executed, and the iteration has no frame tick, no render and no audio hand-off.
(The reading of "before or after the read", and that `pc` stays, are the spec's decision D4, log entry 15; that the
faulting iteration does nothing more is its decision D21, log entry 24.) -/
def Obligations.FetchOutsideTheWindowFaults : Prop :=
  ∀ s : State, s.run = .running → s.nextInput.quit = false →
    (s.pc.toNat < 0x200 ∨ 0xFFB < s.pc.toNat) →
    ∃ t, step s = .next t ∧ t.run = .faulted (.inaccessibleMemoryAddress s.pc) ∧
      t.out.diag = some (.inaccessibleMemoryAddress s.pc) ∧ t.out.render = none ∧ t.out.audio = none ∧
      t.out.log = none ∧
      Frame [.run, .key, .released, .rand, .inputs, .iter, .out] s t

/-- A quit at step 1 ends the run, and no other step of the iteration runs (the spec's decision D16): no key poll, no
instruction, no tick, no output. -/
def Obligations.QuitEndsTheRunAtOnce : Prop :=
  ∀ s : State, s.Enabled → s.nextInput.quit = true →
    ∃ t, step s = .next t ∧ t.run = .ended ∧ t.out = Output.none ∧ Frame [.run, .inputs, .iter, .out] s t

/-- No iteration is enabled in `Ended` or `Faulted`: the step stops there and only there (that the interface's `fault`
outcome says so is the model's choice, log entry 9). -/
def Obligations.StepStopsExactlyInTheTerminalStates : Prop :=
  ∀ s : State,
    (s.run = .ended → step s = .fault .runEnded) ∧
    (∀ f, s.run = .faulted f → step s = .fault (.runFaulted f)) ∧
    (s.Enabled → ∃ t, step s = .next t)

/-- Step 1 without a quit replaces the key state in every VM state, and latches a reported release over an earlier one.
What it leaves in the latch is what the wait step and Fx0A find (that the latch holds the latest reported release, and
that a report is not checked, are the spec's decisions D15 and D28, log entry 23). -/
def Obligations.PollReplacesKeysAndLatchesRelease : Prop :=
  (∀ s t : State, s.nextInput.quit = false → step s = .next t → t.key = s.nextInput.keys) ∧
  ∀ s : State, s.polled.released =
      (match s.nextInput.release with
        | some k => some k
        | none => s.released) ∧
    Frame [.key, .released, .rand, .inputs, .iter, .out] s s.polled

/-- The wait step: with a release latched, its key goes into `Vx`, the latch is emptied and the machine is running again;
with none, it changes nothing. Of the whole iteration, only the parts that steps 1, 3 and 4 write can change besides: `pc`,
memory, the stack and every pixel stay. -/
def Obligations.WaitStepTakesTheRelease : Prop :=
  ∀ (s : State) (x : RegIx), s.run = .waitingForKey x → s.nextInput.quit = false →
    (∀ k, s.polled.released = some k →
      (∃ u, AfterStepTwo s u ∧ (u.getV x).toNat = k.val ∧ RegFrame [x] s u ∧ u.released = none ∧
        u.run = .running ∧ Frame [.V, .released, .run] s.polled u) ∧
      ∃ t, step s = .next t ∧ (t.getV x).toNat = k.val ∧ RegFrame [x] s t ∧ t.released = none ∧
        t.run = .running ∧
        Frame [.V, .key, .released, .run, .rand, .inputs, .iter, .out, .DT, .ST, .frameAcc, .audioOn] s t) ∧
    (s.polled.released = none →
      AfterStepTwo s s.polled ∧
      ∃ t, step s = .next t ∧ t.released = none ∧
        Frame [.key, .released, .rand, .inputs, .iter, .out, .DT, .ST, .frameAcc, .audioOn] s t)

/-- Step 3: when the tick is due, each timer above 0 goes down by one and one at 0 stays, the framebuffer as step 2 left
it is handed over, and the accumulator is reset; otherwise the timers stay and nothing is handed over. It runs after
step 2 whether that waited or executed, unless step 2 faulted. Under `VirtualClock(n)` the accumulator counts iterations
and the tick is due when it reaches `n`; under `HostClock` the host's `frame_due` decides (the schedules are the spec's
decision D17; that the model's accumulator stays under `HostClock` is log entry 7). -/
def Obligations.FrameTickComesAfterStepTwo : Prop :=
  ∀ s u : State, AfterStepTwo s u → ¬ u.Faulted →
    ∃ t, step s = .next t ∧ Frame [.DT, .ST, .frameAcc, .audioOn, .out] u t ∧
      (TickDue s u → t.DT.toNat = u.DT.toNat - 1 ∧ t.ST.toNat = u.ST.toNat - 1 ∧ t.out.render = some u.FB ∧
        t.frameAcc = 0) ∧
      (¬ TickDue s u → t.DT = u.DT ∧ t.ST = u.ST ∧ t.out.render = none ∧
        ((∃ n, u.cfg.schedule = .virtualClock n) → t.frameAcc = u.frameAcc + 1) ∧
        (u.cfg.schedule = .hostClock → t.frameAcc = u.frameAcc))

/-- Step 4: every iteration that reaches it hands over `ST != 0` as step 3 left `ST`, and `audio_on` is that value
(the spec's decision D29, log entry 25). -/
def Obligations.AudioFollowsTheSoundTimer : Prop :=
  ∀ s u : State, AfterStepTwo s u → ¬ u.Faulted →
    ∃ t, step s = .next t ∧ (t.audioOn = true ↔ t.ST ≠ 0) ∧ t.out.audio = some t.audioOn

/-- A fatal fault in step 2 is diagnosed, and steps 3 and 4 of that iteration do not run: the state after step 2 is the
state after the iteration (the spec's decision D21, log entry 24). No step follows it (that the interface's `fault`
outcome says so is the model's choice, log entry 9). -/
def Obligations.FaultEndsTheIteration : Prop :=
  ∀ (s u : State) (f : FatalFault), AfterStepTwo s u → u.run = .faulted f →
    step s = .next u ∧ u.out.diag = some f ∧ u.out.render = none ∧ u.out.audio = none ∧
      step u = .fault (.runFaulted f)

/-- A fatal fault of an instruction is precise: `run` and the diagnostic change and nothing else, so `pc` stays at
`ia + 2`; and only these instructions fault, with only these faults (the spec's decision D21, log entry 24; the faults
themselves are its decisions D1, D3, D6 and D10, log entries 13, 14, 16 and 19). -/
def Obligations.InstructionFaultsArePreciseAndListed : Prop :=
  ∀ (i : Instr) (s t : State) (f : FatalFault), ¬ s.Faulted → exec i s = .next t → t.run = .faulted f →
    Frame [.run, .out] s t ∧ t.out.diag = some f ∧ t.out.render = s.out.render ∧ t.out.audio = s.out.audio ∧
    t.out.log = s.out.log ∧
    ((i = .ret ∧ f = .stackUnderflow s.ia) ∨
      ((∃ nnn, i = .call nnn) ∧ f = .stackOverflow s.ia) ∨
      (∃ x, (i = .skpVx x ∨ i = .sknpVx x) ∧ f = .invalidKey s.ia (s.getV x)) ∨
      ((∃ x y n, i = .drwVxVyN x y n) ∧ f = .inaccessibleDataAddress s.ia 0xFFF) ∨
      ((∃ x, i = .ldVxMem x) ∧ f = .inaccessibleDataAddress s.ia 0xFFF) ∨
      ((∃ x, i = .ldBVx x ∨ i = .ldMemVx x) ∧
        (f = .inaccessibleDataAddress s.ia 0xFFF ∨ ∃ a, a < 0x200 ∧ f = .fontRegionWrite s.ia a)))

/-- `exec` answers a next state for every instruction in every state, and never stops or refuses. For an instruction that
takes a fatal fault that is so because the model answers the state that R211 describes as a next state (log entry 10). No
effect is named here: the statements on the instructions name them. -/
def Obligations.EveryInstructionHasANextState : Prop :=
  ∀ (i : Instr) (s : State), ∃ t, exec i s = .next t

/-! ### Invariants and whole-machine rules -/

/-- The invariant of a run holds after every initialisation that is not rejected, with any image and any parameters whose
FRAME_ITER is at least 1 (log entry 4), and in `State.reset`. (The reset values of `ST`, `frame_acc` and `audio_on` are the
spec's decisions D18 and D29, log entry 11; the form of memory is log entry 12.) -/
def Obligations.ResetMeetsTheInvariant : Prop :=
  (∀ (c : Config) (image : List Byte) (s : State), c.scheduleOk = true → State.init c image = some s → s.Inv) ∧
  State.reset.Inv

/-- Every step keeps the invariant, whatever the inputs: memory stays canonical and the font region intact, the
accumulator stays below FRAME_ITER, `audio_on` is `ST != 0`, and a fault is diagnosed exactly in the state it leaves.
(The model's choices in it: the canonical list of cells is log entry 12, and the accumulator 0 under `HostClock` log entry 7.
The spec's decisions in it: the font region D3, log entry 14; the schedules D17, log entry 25; what a fault leaves D21, log
entry 24.) -/
def Obligations.EveryStepKeepsTheInvariant : Prop :=
  ∀ s t : State, s.Inv → step s = .next t → t.Inv

/-- No step changes a byte below 0x200, from any state (that a write there faults is the spec's decision D3). -/
def Obligations.FontRegionIsNeverMutated : Prop :=
  ∀ s t : State, step s = .next t → ∀ a, a < 0x200 → t.byteAt a = s.byteAt a

/-- Only 2nnn and 00EE change `sp`, only 2nnn writes a stack slot, and every slot but number `sp + 1` keeps its value (slot
`j` is element `j - 1`; that a call writes that slot is the spec's decision D6, log entry 16). -/
def Obligations.OnlyCallAndReturnTouchTheStack : Prop :=
  ∀ (i : Instr) (s t : State), exec i s = .next t →
    ((∀ nnn, i ≠ .call nnn) → t.stack = s.stack ∧ (i ≠ .ret → t.sp = s.sp)) ∧
    (∀ j : Fin 8, j.val ≠ s.sp.val → t.stack[j] = s.stack[j])

/-- Only Fx33 and Fx55 write memory, only 00E0 and Dxyn write the framebuffer, and only Annn, Fx1E and Fx29 write I (that
Fx55 and Fx65 do not is the spec's decision D11, log entry 20). -/
def Obligations.OnlyTheirOwnInstructionsWriteMemoryFramebufferAndI : Prop :=
  ∀ (i : Instr) (s t : State), exec i s = .next t →
    ((∀ x, i ≠ .ldBVx x ∧ i ≠ .ldMemVx x) →
      Frame [.V, .pc, .I, .sp, .stack, .DT, .ST, .FB, .released, .run, .out] s t) ∧
    ((i ≠ .cls ∧ ∀ x y n, i ≠ .drwVxVyN x y n) → t.FB = s.FB) ∧
    ((∀ nnn x, i ≠ .ldINnn nnn ∧ i ≠ .addIVx x ∧ i ≠ .ldFVx x) → t.I = s.I)

/-- Only Fx15 writes DT, only Fx18 writes ST, and no instruction touches the key state, the accumulator, the audio value
or the parameters. -/
def Obligations.OnlyTheirOwnInstructionsWriteTheTimers : Prop :=
  ∀ (i : Instr) (s t : State), exec i s = .next t →
    ((∀ x, i ≠ .ldDTVx x) → t.DT = s.DT) ∧ ((∀ x, i ≠ .ldSTVx x) → t.ST = s.ST) ∧
    t.key = s.key ∧ t.frameAcc = s.frameAcc ∧ t.audioOn = s.audioOn ∧ t.cfg = s.cfg ∧
    t.inputs = s.inputs ∧ t.iter = s.iter ∧ t.rand = s.rand

/-- VF is written only as a flag by 8xy4-8xy7, 8xyE and Dxyn, or as an ordinary destination: no other instruction changes
it unless it names VF. -/
def Obligations.VFIsWrittenOnlyAsFlagOrNamedDestination : Prop :=
  ∀ (i : Instr) (s t : State), exec i s = .next t → t.getV 0xF ≠ s.getV 0xF →
    (∃ x y, i = .addVxVy x y ∨ i = .subVxVy x y ∨ i = .shrVxVy x y ∨ i = .subnVxVy x y ∨ i = .shlVxVy x y) ∨
    (∃ x y n, i = .drwVxVyN x y n) ∨
    (∃ kk, i = .ldVxKk 0xF kk ∨ i = .addVxKk 0xF kk ∨ i = .rndVxKk 0xF kk) ∨
    (∃ y, i = .ldVxVy 0xF y ∨ i = .orVxVy 0xF y ∨ i = .andVxVy 0xF y ∨ i = .xorVxVy 0xF y) ∨
    i = .ldVxDT 0xF ∨ i = .ldVxMem 0xF

/-- How a wait starts and ends: a step from `Running` waits only by an Fx0A at `pc`, and a step from `WaitingForKey(x)`
either goes on waiting for the same register, runs, or ends by quit (R35 read with R201, log entry 24). -/
def Obligations.RunStateTransitions : Prop :=
  (∀ (s t : State) (x : RegIx), s.run = .running → step s = .next t → t.run = .waitingForKey x →
    s.fetched = .instr (.ldVxK x)) ∧
  (∀ (s t : State) (x : RegIx), s.run = .waitingForKey x → step s = .next t →
    t.run = .waitingForKey x ∨ t.run = .running ∨ (t.run = .ended ∧ s.nextInput.quit = true))

/-- No instruction reads ST: of two states that differ only in ST, an instruction makes two states that differ only in
ST, and Fx18 makes the same one of both. -/
def Obligations.NoInstructionReadsTheSoundTimer : Prop :=
  ∀ (i : Instr) (s t : State) (b : Byte), exec i s = .next t →
    ((∀ x, i ≠ .ldSTVx x) → exec i (s.setST b) = .next (t.setST b)) ∧
    ((∃ x, i = .ldSTVx x) → exec i (s.setST b) = .next t)

/-- No instruction reads a vacated stack slot: a change of slot `j` above `sp` changes nothing else of the result (a slot
is element `j` for slot number `j + 1`; that `sp` counts the addresses held is the spec's decision D6, log entry 16). -/
def Obligations.VacatedStackSlotsAreUnobservable : Prop :=
  ∀ (i : Instr) (s t : State) (j : Fin 8) (w : Word), s.sp.val ≤ j.val → exec i s = .next t →
    ∃ t', exec i { s with stack := s.stack.set j.val w } = .next t' ∧
      t' = { t with stack := t'.stack } ∧ ∀ k : Fin 8, k ≠ j → t'.stack[k] = t.stack[k]

/-! ### Initialisation (70_reset_and_hazards.md, 10_state.md R39) -/

/-- An image of at most 3215 bytes is loaded verbatim at 0x200, over memory that holds FONT_DATA at 0x000-0x04F and 0x00
elsewhere; a longer one is rejected. The registers are those of the reset state. (The 0x00 bytes and the register values
are the spec's decisions D18 and D20.) -/
def Obligations.InitialisationLoadsTheImage : Prop :=
  ∀ (c : Config) (image : List Byte),
    (image.length ≤ 3215 → ∃ s, State.init c image = some s ∧ s.cfg = c ∧
      (∀ (k : Nat) (h : k < image.length), s.byteAt (0x200 + k) = image[k]) ∧
      (∀ (k : Nat) (h : k < 80), s.byteAt k = c.fontData[k]) ∧
      (∀ a, 80 ≤ a → (a < 0x200 ∨ 0x200 + image.length ≤ a) → s.byteAt a = 0) ∧
      s = { State.reset with cfg := c, mem := s.mem }) ∧
    (3215 < image.length → State.init c image = none)

/-- The state after initialisation with no image (R39; its register values are the spec's decision D18). -/
def Obligations.ResetValues : Prop :=
  State.init Params.defaultConfig [] = some State.reset ∧
  (∀ r, State.reset.getV r = 0) ∧ State.reset.pc = 0x200 ∧ State.reset.I = 0 ∧ State.reset.sp = 0 ∧
  State.reset.DT = 0 ∧ State.reset.ST = 0 ∧ (∀ px py, State.reset.FB.pixel px py = false) ∧
  (∀ k : Key, State.reset.key[k] = false) ∧ State.reset.released = none ∧ State.reset.run = .running ∧
  State.reset.frameAcc = 0 ∧ State.reset.audioOn = false ∧ (∀ j : Fin 8, State.reset.stack[j] = 0)

/-! ### Memory (20_memory.md) -/

/-- Every data address is `(I + k) mod 4096` (the masking policy is the spec's decision D2). -/
def Obligations.EffectiveAddressIsModulo4096 : Prop :=
  ∀ (s : State) (k : Nat), s.ea k = (s.I.toNat + k) % 4096

/-- Fetch is coherent with data writes: after the bytes of an instruction are stored at `pc` and `pc + 1`, the fetch reads
that instruction, and every other byte reads as before. -/
def Obligations.FetchSeesStoredBytes : Prop :=
  ∀ (s : State) (i : Instr), 0x200 ≤ s.pc.toNat → s.pc.toNat + 2 < 0xFFE →
    ∀ t, t = (s.storeByte s.pc.toNat (wordHi (encodeWord i))).storeByte (s.pc.toNat + 1) (wordLo (encodeWord i)) →
      t.fetched = .instr i ∧ MemFrame [s.pc.toNat, s.pc.toNat + 1] s t

/-! ### Families 0-7 (40_flow_and_immediates.md) -/

/-- 00E0 sets every pixel to 0 and changes nothing else. -/
def Obligations.ClsClearsEveryPixel : Prop :=
  decodeWord 0x00E0 = .ok .cls ∧
  ∀ s : State, ∃ t, exec .cls s = .next t ∧ (∀ px py, t.FB.pixel px py = false) ∧ Frame [.FB] s t

/-- 00EE with `sp = j > 0` goes to the address in slot `j` and makes `sp = j - 1`; no slot changes
(the spec's decision D6, log entry 16). -/
def Obligations.RetPopsTheReturnAddress : Prop :=
  decodeWord 0x00EE = .ok .ret ∧
  ∀ (s : State) (j : Fin 8), s.sp.val = j.val + 1 →
    ∃ t, exec .ret s = .next t ∧ t.pc = s.stack[j] ∧ t.sp.val = j.val ∧ Frame [.pc, .sp] s t

/-- 00EE with an empty stack raises `StackUnderflow`, and 2nnn with 8 addresses held raises `StackOverflow`; both record
`ia` (that these are fatal faults is the spec's decision D6). -/
def Obligations.StackFaults : Prop :=
  (∀ s : State, s.sp.val = 0 → ∃ t, exec .ret s = .next t ∧ t.run = .faulted (.stackUnderflow (s.pc - 2)) ∧
    t.out.diag = some (.stackUnderflow (s.pc - 2)) ∧ Frame [.run, .out] s t) ∧
  (∀ (s : State) (nnn : BitVec 12), s.sp.val = 8 →
    ∃ t, exec (.call nnn) s = .next t ∧ t.run = .faulted (.stackOverflow (s.pc - 2)) ∧
      t.out.diag = some (.stackOverflow (s.pc - 2)) ∧ Frame [.run, .out] s t)

/-- 1nnn makes `pc` the zero-extended `nnn` and changes nothing else. -/
def Obligations.JpSetsThePc : Prop :=
  ∀ nnn : BitVec 12, decodeWord (BitVec.ofNat 16 (0x1000 + nnn.toNat)) = .ok (.jp nnn) ∧
  ∀ s : State, ∃ t, exec (.jp nnn) s = .next t ∧ t.pc.toNat = nnn.toNat ∧ Frame [.pc] s t

/-- 2nnn with `sp = j < 8` makes `sp = j + 1`, writes the return address `pc` into slot `j + 1`, leaves the other slots,
and goes to `nnn` (the spec's decision D6, log entry 16). -/
def Obligations.CallPushesTheReturnAddress : Prop :=
  ∀ nnn : BitVec 12, decodeWord (BitVec.ofNat 16 (0x2000 + nnn.toNat)) = .ok (.call nnn) ∧
  ∀ (s : State) (j : Fin 8), s.sp.val = j.val →
    ∃ t, exec (.call nnn) s = .next t ∧ t.sp.val = j.val + 1 ∧ t.stack[j] = s.pc ∧
      (∀ k : Fin 8, k ≠ j → t.stack[k] = s.stack[k]) ∧ t.pc.toNat = nnn.toNat ∧ Frame [.pc, .sp, .stack] s t

/-- A return right after a call goes to the instruction after the call site and restores `sp`. Slot `sp + 1`, which is
element `sp`, keeps the return address that the call wrote, and nothing else differs from before the call (the place of the
pushed slot is the spec's decision D6, log entry 16). -/
def Obligations.ReturnComesBackAfterTheCall : Prop :=
  ∀ (s t : State) (nnn : BitVec 12), s.sp.val < 8 → exec (.call nnn) s = .next t →
    ∃ u, exec .ret t = .next u ∧ u.pc = s.pc ∧ u.sp = s.sp ∧ Frame [.stack] s u ∧
      (∀ k : Fin 8, k.val = s.sp.val → u.stack[k] = s.pc) ∧
      (∀ k : Fin 8, k.val ≠ s.sp.val → u.stack[k] = s.stack[k])

/-- 3xkk and 4xkk step over one word when Vx equals `kk`, respectively when it does not, and change nothing but `pc`. -/
def Obligations.SkipsOnAnImmediate : Prop :=
  ∀ (x : RegIx) (kk : Byte),
  decodeWord (BitVec.ofNat 16 (0x3000 + x.val * 256 + kk.toNat)) = .ok (.seVxKk x kk) ∧
  decodeWord (BitVec.ofNat 16 (0x4000 + x.val * 256 + kk.toNat)) = .ok (.sneVxKk x kk) ∧
  ∀ s : State,
    (∃ t, exec (.seVxKk x kk) s = .next t ∧ Frame [.pc] s t ∧
      (s.getV x = kk → t.pc.toNat = (s.pc.toNat + 2) % 65536) ∧ (s.getV x ≠ kk → t.pc = s.pc)) ∧
    (∃ t, exec (.sneVxKk x kk) s = .next t ∧ Frame [.pc] s t ∧
      (s.getV x ≠ kk → t.pc.toNat = (s.pc.toNat + 2) % 65536) ∧ (s.getV x = kk → t.pc = s.pc))

/-- 5xy0 and 9xy0 step over one word when Vx equals Vy, respectively when it does not, and change nothing but `pc` (that
the low nibble must be 0 is the spec's decision D9). -/
def Obligations.SkipsOnTwoRegisters : Prop :=
  ∀ x y : RegIx,
  decodeWord (BitVec.ofNat 16 (0x5000 + x.val * 256 + y.val * 16)) = .ok (.seVxVy x y) ∧
  decodeWord (BitVec.ofNat 16 (0x9000 + x.val * 256 + y.val * 16)) = .ok (.sneVxVy x y) ∧
  ∀ s : State,
    (∃ t, exec (.seVxVy x y) s = .next t ∧ Frame [.pc] s t ∧
      (s.getV x = s.getV y → t.pc.toNat = (s.pc.toNat + 2) % 65536) ∧ (s.getV x ≠ s.getV y → t.pc = s.pc)) ∧
    (∃ t, exec (.sneVxVy x y) s = .next t ∧ Frame [.pc] s t ∧
      (s.getV x ≠ s.getV y → t.pc.toNat = (s.pc.toNat + 2) % 65536) ∧ (s.getV x = s.getV y → t.pc = s.pc))

/-- 6xkk loads `kk` into Vx; 7xkk adds `kk` to Vx modulo 256. With x = 0xF they write VF as an ordinary destination.
Neither sets a flag or changes anything else. -/
def Obligations.LoadAndAddImmediateSetNoFlag : Prop :=
  ∀ (x : RegIx) (kk : Byte),
  decodeWord (BitVec.ofNat 16 (0x6000 + x.val * 256 + kk.toNat)) = .ok (.ldVxKk x kk) ∧
  decodeWord (BitVec.ofNat 16 (0x7000 + x.val * 256 + kk.toNat)) = .ok (.addVxKk x kk) ∧
  ∀ s : State,
    (∃ t, exec (.ldVxKk x kk) s = .next t ∧ t.getV x = kk ∧ RegFrame [x] s t ∧ Frame [.V] s t) ∧
    (∃ t, exec (.addVxKk x kk) s = .next t ∧ (t.getV x).toNat = ((s.getV x).toNat + kk.toNat) % 256 ∧
      RegFrame [x] s t ∧ Frame [.V] s t)

/-! ### Family 8 (41_alu.md) -/

/-- 8xy0 copies Vy to Vx; 8xy1, 8xy2 and 8xy3 put the bitwise OR, AND and XOR of Vx and Vy in Vx. None of them writes a
flag or anything else. -/
def Obligations.CopyAndLogicSetNoFlag : Prop :=
  ∀ x y : RegIx,
  decodeWord (BitVec.ofNat 16 (0x8000 + x.val * 256 + y.val * 16)) = .ok (.ldVxVy x y) ∧
  decodeWord (BitVec.ofNat 16 (0x8001 + x.val * 256 + y.val * 16)) = .ok (.orVxVy x y) ∧
  decodeWord (BitVec.ofNat 16 (0x8002 + x.val * 256 + y.val * 16)) = .ok (.andVxVy x y) ∧
  decodeWord (BitVec.ofNat 16 (0x8003 + x.val * 256 + y.val * 16)) = .ok (.xorVxVy x y) ∧
  ∀ s : State,
    (∃ t, exec (.ldVxVy x y) s = .next t ∧ t.getV x = s.getV y ∧ RegFrame [x] s t ∧ Frame [.V] s t) ∧
    (∃ t, exec (.orVxVy x y) s = .next t ∧ RegFrame [x] s t ∧ Frame [.V] s t ∧
      ∀ k, (t.getV x).getLsbD k = ((s.getV x).getLsbD k || (s.getV y).getLsbD k)) ∧
    (∃ t, exec (.andVxVy x y) s = .next t ∧ RegFrame [x] s t ∧ Frame [.V] s t ∧
      ∀ k, (t.getV x).getLsbD k = ((s.getV x).getLsbD k && (s.getV y).getLsbD k)) ∧
    (∃ t, exec (.xorVxVy x y) s = .next t ∧ RegFrame [x] s t ∧ Frame [.V] s t ∧
      ∀ k, (t.getV x).getLsbD k = xor ((s.getV x).getLsbD k) ((s.getV y).getLsbD k))

/-- 8xy4 puts the sum modulo 256 in Vx and the carry in VF. With x = 0xF the carry is what VF holds (decision D7). -/
def Obligations.AddSetsTheCarry : Prop :=
  ∀ x y : RegIx,
  decodeWord (BitVec.ofNat 16 (0x8004 + x.val * 256 + y.val * 16)) = .ok (.addVxVy x y) ∧
  ∀ s : State, ∃ t, exec (.addVxVy x y) s = .next t ∧
    (x ≠ 0xF → (t.getV x).toNat = ((s.getV x).toNat + (s.getV y).toNat) % 256) ∧
    (t.getV 0xF).toNat = (if (s.getV x).toNat + (s.getV y).toNat > 255 then 1 else 0) ∧
    RegFrame [x, 0xF] s t ∧ Frame [.V] s t

/-- 8xy5 puts Vx - Vy modulo 256 in Vx and sets VF when Vx > Vy; 8xy7 puts Vy - Vx modulo 256 in Vx and sets VF when
Vy > Vx. Equal operands give flag 0. With x = 0xF the flag is what VF holds (decision D7). -/
def Obligations.SubtractSetsStrictlyGreater : Prop :=
  ∀ x y : RegIx,
  decodeWord (BitVec.ofNat 16 (0x8005 + x.val * 256 + y.val * 16)) = .ok (.subVxVy x y) ∧
  decodeWord (BitVec.ofNat 16 (0x8007 + x.val * 256 + y.val * 16)) = .ok (.subnVxVy x y) ∧
  ∀ s : State,
    (∃ t, exec (.subVxVy x y) s = .next t ∧
      (x ≠ 0xF → (t.getV x).toNat = ((s.getV x).toNat + 256 - (s.getV y).toNat) % 256) ∧
      (t.getV 0xF).toNat = (if (s.getV x).toNat > (s.getV y).toNat then 1 else 0) ∧
      RegFrame [x, 0xF] s t ∧ Frame [.V] s t) ∧
    (∃ t, exec (.subnVxVy x y) s = .next t ∧
      (x ≠ 0xF → (t.getV x).toNat = ((s.getV y).toNat + 256 - (s.getV x).toNat) % 256) ∧
      (t.getV 0xF).toNat = (if (s.getV y).toNat > (s.getV x).toNat then 1 else 0) ∧
      RegFrame [x, 0xF] s t ∧ Frame [.V] s t)

/-- 8xy6 and 8xyE put Vy shifted by one in Vx and the bit shifted out of Vy in VF; Vy is not written unless it is Vx or
VF (decision D8). With x = 0xF the flag is what VF holds (decision D7). -/
def Obligations.ShiftsTakeVyAndSetTheBitShiftedOut : Prop :=
  ∀ x y : RegIx,
  decodeWord (BitVec.ofNat 16 (0x8006 + x.val * 256 + y.val * 16)) = .ok (.shrVxVy x y) ∧
  decodeWord (BitVec.ofNat 16 (0x800E + x.val * 256 + y.val * 16)) = .ok (.shlVxVy x y) ∧
  ∀ s : State,
    (∃ t, exec (.shrVxVy x y) s = .next t ∧
      (x ≠ 0xF → (t.getV x).toNat = (s.getV y).toNat / 2) ∧ (t.getV 0xF).toNat = (s.getV y).toNat % 2 ∧
      RegFrame [x, 0xF] s t ∧ Frame [.V] s t) ∧
    (∃ t, exec (.shlVxVy x y) s = .next t ∧
      (x ≠ 0xF → (t.getV x).toNat = (s.getV y).toNat * 2 % 256) ∧ (t.getV 0xF).toNat = (s.getV y).toNat / 128 ∧
      RegFrame [x, 0xF] s t ∧ Frame [.V] s t)

/-! ### Families 9-D (42_index_random_draw.md) -/

/-- Annn loads the zero-extended `nnn` into I, unchecked, and changes nothing else. -/
def Obligations.LoadAddressRegister : Prop :=
  ∀ nnn : BitVec 12, decodeWord (BitVec.ofNat 16 (0xA000 + nnn.toNat)) = .ok (.ldINnn nnn) ∧
  ∀ s : State, ∃ t, exec (.ldINnn nnn) s = .next t ∧ t.I.toNat = nnn.toNat ∧ Frame [.I] s t

/-- Bnnn goes to V0 + nnn, not masked to 12 bits (decision D13), and changes nothing else. -/
def Obligations.JumpWithOffset : Prop :=
  ∀ nnn : BitVec 12, decodeWord (BitVec.ofNat 16 (0xB000 + nnn.toNat)) = .ok (.jpV0Nnn nnn) ∧
  ∀ s : State, ∃ t, exec (.jpV0Nnn nnn) s = .next t ∧ t.pc.toNat = (s.getV 0x0).toNat + nnn.toNat ∧ Frame [.pc] s t

/-- Cxkk puts the iteration's random byte, masked by `kk`, in Vx: bit by bit, and for every random byte. In the iteration
the byte is the `rand` of its input, whatever that is (the spec's decision D23, log entry 2). -/
def Obligations.RandomByteIsMasked : Prop :=
  ∀ (x : RegIx) (kk : Byte),
  decodeWord (BitVec.ofNat 16 (0xC000 + x.val * 256 + kk.toNat)) = .ok (.rndVxKk x kk) ∧
  (∀ s : State, ∃ t, exec (.rndVxKk x kk) s = .next t ∧ RegFrame [x] s t ∧ Frame [.V] s t ∧
    ∀ k, (t.getV x).getLsbD k = (s.rand.getLsbD k && kk.getLsbD k)) ∧
  ∀ s : State, s.polled.rand = s.nextInput.rand

/-- Dxyn when no sprite byte is at 0xFFF: each pixel of the 8 x n box that starts at (Vx mod 64, Vy mod 32) and lies
inside the bitmap is its old value XOR its sprite bit, and every other pixel is unchanged. Apart from the pixels only `VF`
may change (its value is DrawSetsTheCollisionFlag). That all sprite bytes are read first is the spec's decision D14, log
entry 21. -/
def Obligations.DrawXorsTheClippedBox : Prop :=
  ∀ (x y : RegIx) (n : BitVec 4),
  decodeWord (BitVec.ofNat 16 (0xD000 + x.val * 256 + y.val * 16 + n.toNat)) = .ok (.drwVxVyN x y n) ∧
  ∀ s : State, (∀ r, r < n.toNat → s.ea r ≠ 0xFFF) →
    ∃ t, exec (.drwVxVyN x y n) s = .next t ∧ RegFrame [0xF] s t ∧ Frame [.V, .FB] s t ∧
      (∀ r c, r < n.toNat → c < 8 →
        (s.getV x).toNat % 64 + c < 64 → (s.getV y).toNat % 32 + r < 32 →
        t.FB.pixel ((s.getV x).toNat % 64 + c) ((s.getV y).toNat % 32 + r) =
          xor (s.FB.pixel ((s.getV x).toNat % 64 + c) ((s.getV y).toNat % 32 + r))
            ((s.byteAt (s.ea r)).getLsbD (7 - c))) ∧
      (∀ px py, px < 64 → py < 32 →
        (∀ r c, r < n.toNat → c < 8 → ¬ (px = (s.getV x).toNat % 64 + c ∧ py = (s.getV y).toNat % 32 + r)) →
        t.FB.pixel px py = s.FB.pixel px py)

/-- The collision flag of Dxyn: VF is 1 exactly when a pixel of the box inside the bitmap collides, where under
`RemainsSet` a set pixel collides under a 0 sprite bit, and under `Erased` under a 1 sprite bit (the parameter and its
default are the spec's decision D14). Otherwise VF is 0. -/
def Obligations.DrawSetsTheCollisionFlag : Prop :=
  ∀ (x y : RegIx) (n : BitVec 4) (s : State), (∀ r, r < n.toNat → s.ea r ≠ 0xFFF) →
    ∃ t, exec (.drwVxVyN x y n) s = .next t ∧ (t.getV 0xF = 0 ∨ t.getV 0xF = 1) ∧
      (t.getV 0xF = 1 ↔ ∃ r c, r < n.toNat ∧ c < 8 ∧
        (s.getV x).toNat % 64 + c < 64 ∧ (s.getV y).toNat % 32 + r < 32 ∧
        s.FB.pixel ((s.getV x).toNat % 64 + c) ((s.getV y).toNat % 32 + r) = true ∧
        (s.byteAt (s.ea r)).getLsbD (7 - c) = decide (s.cfg.collision = .erased))

/-- Drawing the same sprite twice at the same place restores the framebuffer. -/
def Obligations.DrawingTwiceRestoresTheFramebuffer : Prop :=
  ∀ (x y : RegIx) (n : BitVec 4) (s t u : State), x ≠ 0xF → y ≠ 0xF → ¬ s.Faulted →
    exec (.drwVxVyN x y n) s = .next t → ¬ t.Faulted → exec (.drwVxVyN x y n) t = .next u →
    ¬ u.Faulted ∧ u.FB = s.FB

/-! ### Families E and F (43_keys_timers_memory.md) -/

/-- Ex9E and ExA1 with Vx = k < 16 step over one word when key k is pressed, respectively not pressed, and change
nothing but `pc`. -/
def Obligations.SkipsOnAKey : Prop :=
  ∀ x : RegIx,
  decodeWord (BitVec.ofNat 16 (0xE09E + x.val * 256)) = .ok (.skpVx x) ∧
  decodeWord (BitVec.ofNat 16 (0xE0A1 + x.val * 256)) = .ok (.sknpVx x) ∧
  ∀ (s : State) (k : Key), (s.getV x).toNat = k.val →
    (∃ t, exec (.skpVx x) s = .next t ∧ Frame [.pc] s t ∧
      t.pc.toNat = (if s.key[k] = true then (s.pc.toNat + 2) % 65536 else s.pc.toNat)) ∧
    (∃ t, exec (.sknpVx x) s = .next t ∧ Frame [.pc] s t ∧
      t.pc.toNat = (if s.key[k] = true then s.pc.toNat else (s.pc.toNat + 2) % 65536))

/-- Ex9E and ExA1 with Vx > 0xF raise `InvalidKey`, which records `ia` and Vx (the spec's decision D10). -/
def Obligations.SkipOnNoKeyFaults : Prop :=
  ∀ (x : RegIx) (s : State) (i : Instr), (i = .skpVx x ∨ i = .sknpVx x) → 0xF < (s.getV x).toNat →
    ∃ t, exec i s = .next t ∧ t.run = .faulted (.invalidKey (s.pc - 2) (s.getV x)) ∧
      t.out.diag = some (.invalidKey (s.pc - 2) (s.getV x)) ∧ Frame [.run, .out] s t

/-- Fx07 copies DT to Vx, Fx15 copies Vx to DT and Fx18 copies Vx to ST; nothing else changes. -/
def Obligations.TimerTransfers : Prop :=
  ∀ x : RegIx,
  decodeWord (BitVec.ofNat 16 (0xF007 + x.val * 256)) = .ok (.ldVxDT x) ∧
  decodeWord (BitVec.ofNat 16 (0xF015 + x.val * 256)) = .ok (.ldDTVx x) ∧
  decodeWord (BitVec.ofNat 16 (0xF018 + x.val * 256)) = .ok (.ldSTVx x) ∧
  ∀ s : State,
    (∃ t, exec (.ldVxDT x) s = .next t ∧ t.getV x = s.DT ∧ RegFrame [x] s t ∧ Frame [.V] s t) ∧
    (∃ t, exec (.ldDTVx x) s = .next t ∧ t.DT = s.getV x ∧ Frame [.DT] s t) ∧
    (∃ t, exec (.ldSTVx x) s = .next t ∧ t.ST = s.getV x ∧ Frame [.ST] s t)

/-- Fx0A empties the release latch and waits for register x; `pc` and everything else stay (that an earlier release does
not count is the spec's decision D15). -/
def Obligations.WaitForKeyClearsTheLatch : Prop :=
  ∀ x : RegIx,
  decodeWord (BitVec.ofNat 16 (0xF00A + x.val * 256)) = .ok (.ldVxK x) ∧
  ∀ s : State, ∃ t, exec (.ldVxK x) s = .next t ∧ t.released = none ∧ t.run = .waitingForKey x ∧
    Frame [.released, .run] s t

/-- Fx1E adds Vx to I modulo 65536 (decision D12) with no flag; Fx29 makes I the glyph base of Vx's low nibble, five bytes
a glyph. Nothing else changes. -/
def Obligations.AddressRegisterArithmetic : Prop :=
  ∀ x : RegIx,
  decodeWord (BitVec.ofNat 16 (0xF01E + x.val * 256)) = .ok (.addIVx x) ∧
  decodeWord (BitVec.ofNat 16 (0xF029 + x.val * 256)) = .ok (.ldFVx x) ∧
  ∀ s : State,
    (∃ t, exec (.addIVx x) s = .next t ∧ t.I.toNat = (s.I.toNat + (s.getV x).toNat) % 65536 ∧ Frame [.I] s t) ∧
    (∃ t, exec (.ldFVx x) s = .next t ∧ t.I.toNat = (s.getV x).toNat % 16 * 5 ∧ Frame [.I] s t)

/-- Fx33 with its three addresses inside 0x200..0xFFE stores the hundreds, tens and ones digits of Vx at EA(0), EA(1) and
EA(2); every other byte, I and everything else stay (the masked addresses are the spec's decision D2, log entry 13). -/
def Obligations.BcdStoresTheDecimalDigits : Prop :=
  ∀ x : RegIx,
  decodeWord (BitVec.ofNat 16 (0xF033 + x.val * 256)) = .ok (.ldBVx x) ∧
  ∀ s : State, (∀ k, k < 3 → 0x200 ≤ s.ea k ∧ s.ea k ≠ 0xFFF) →
    ∃ t, exec (.ldBVx x) s = .next t ∧
      (t.byteAt (s.ea 0)).toNat = (s.getV x).toNat / 100 ∧
      (t.byteAt (s.ea 1)).toNat = (s.getV x).toNat / 10 % 10 ∧
      (t.byteAt (s.ea 2)).toNat = (s.getV x).toNat % 10 ∧
      MemFrame [s.ea 0, s.ea 1, s.ea 2] s t ∧ Frame [.mem] s t

/-- Fx55 with its addresses inside 0x200..0xFFE stores Vk at EA(k) for k in 0..x; every other byte, I and everything else
stay (the masked addresses are the spec's decision D2, log entry 13; that I stays is D11, log entry 20). -/
def Obligations.StoreRegistersToMemory : Prop :=
  ∀ x : RegIx,
  decodeWord (BitVec.ofNat 16 (0xF055 + x.val * 256)) = .ok (.ldMemVx x) ∧
  ∀ s : State, (∀ k, k ≤ x.val → 0x200 ≤ s.ea k ∧ s.ea k ≠ 0xFFF) →
    ∃ t, exec (.ldMemVx x) s = .next t ∧
      (∀ k : RegIx, k ≤ x → t.byteAt (s.ea k.val) = s.getV k) ∧
      MemFrame (s.eas (x.val + 1)) s t ∧ Frame [.mem] s t

/-- Fx65 with no address at 0xFFF loads Vk from EA(k) for k in 0..x, VF included; every other register, I, memory and
everything else stay (the masked addresses are the spec's decision D2, log entry 13; that I stays is D11, log entry 20). -/
def Obligations.LoadRegistersFromMemory : Prop :=
  ∀ x : RegIx,
  decodeWord (BitVec.ofNat 16 (0xF065 + x.val * 256)) = .ok (.ldVxMem x) ∧
  ∀ s : State, (∀ k, k ≤ x.val → s.ea k ≠ 0xFFF) →
    ∃ t, exec (.ldVxMem x) s = .next t ∧
      (∀ k : RegIx, k ≤ x → t.getV k = s.byteAt (s.ea k.val)) ∧
      (∀ k : RegIx, x < k → t.getV k = s.getV k) ∧ Frame [.V] s t

/-- Fx33 and Fx55 whose first bad address in the order k = 0, 1, .. is EA(k) raise `InaccessibleDataAddress` when it is
0xFFF and `FontRegionWrite` when it is below 0x200, and write nothing (the spec's decisions D1, D3 and D21). -/
def Obligations.StoresFaultAtTheFirstBadAddress : Prop :=
  ∀ (x : RegIx) (s : State) (i : Instr) (n k : Nat),
    (i = .ldBVx x ∧ n = 3 ∨ i = .ldMemVx x ∧ n = x.val + 1) → k < n →
    (∀ j, j < k → 0x200 ≤ s.ea j ∧ s.ea j ≠ 0xFFF) →
    (s.ea k = 0xFFF → ∃ t, exec i s = .next t ∧ Frame [.run, .out] s t ∧
      t.run = .faulted (.inaccessibleDataAddress (s.pc - 2) 0xFFF)) ∧
    (s.ea k < 0x200 → ∃ t, exec i s = .next t ∧ Frame [.run, .out] s t ∧
      t.run = .faulted (.fontRegionWrite (s.pc - 2) (s.ea k)))

/-- Fx65 and Dxyn with some address at 0xFFF raise `InaccessibleDataAddress` and change no register and no pixel, even
for rows that would be clipped (the spec's decisions D1, D14 and D21). -/
def Obligations.LoadsAndDrawsFaultAtTheMissingByte : Prop :=
  ∀ (s : State) (i : Instr) (n k : Nat),
    ((∃ x : RegIx, i = .ldVxMem x ∧ n = x.val + 1) ∨ (∃ x y m, i = .drwVxVyN x y m ∧ n = m.toNat)) → k < n →
    s.ea k = 0xFFF →
    ∃ t, exec i s = .next t ∧ Frame [.run, .out] s t ∧
      t.run = .faulted (.inaccessibleDataAddress (s.pc - 2) 0xFFF)
end

