-- ==== Sys2Proof/Laws/Decode.lean ====
section
/-! SUPPORT. The opcode formats and fields of R73 as arithmetic, and what each field reads from each format, so that
no proof about decoding takes a word apart. -/

namespace Sys2Proof

theorem toNat_append {m n : Nat} (a : BitVec m) (b : BitVec n) :
    (a ++ b).toNat = a.toNat * 2 ^ n + b.toNat := by
  rw [BitVec.toNat_append, ← Nat.shiftLeft_add_eq_or_of_lt b.isLt, Nat.shiftLeft_eq]

/-- A 16-bit number from its four hexadecimal digits. -/
theorem hexDigits (n : Nat) : n / 4096 * 4096 + n / 256 % 16 * 256 + n / 16 % 16 * 16 + n % 16 = n := by
  have h1 := Nat.div_add_mod n 16
  have h2 := Nat.div_add_mod (n / 16) 16
  have h3 := Nat.div_add_mod (n / 16 / 16) 16
  simp only [Nat.div_div_eq_div_mul] at h2 h3
  omega

/-! ### The fields as arithmetic -/

theorem fieldFamily_eq (op : Word) : fieldFamily op = op.toNat / 4096 := by
  have := op.isLt
  simp only [fieldFamily, BitVec.extractLsb'_toNat, Nat.shiftRight_eq_div_pow]
  omega

theorem fieldX_val (op : Word) : (fieldX op).val = op.toNat / 256 % 16 := by
  show (op.extractLsb' 8 4).toNat = _
  simp only [BitVec.extractLsb'_toNat, Nat.shiftRight_eq_div_pow]

theorem fieldY_val (op : Word) : (fieldY op).val = op.toNat / 16 % 16 := by
  show (op.extractLsb' 4 4).toNat = _
  simp only [BitVec.extractLsb'_toNat, Nat.shiftRight_eq_div_pow]

theorem fieldN_toNat (op : Word) : (fieldN op).toNat = op.toNat % 16 := by
  simp only [fieldN, BitVec.extractLsb'_toNat, Nat.shiftRight_eq_div_pow]
  omega

theorem fieldKk_toNat (op : Word) : (fieldKk op).toNat = op.toNat % 256 := by
  simp only [fieldKk, BitVec.extractLsb'_toNat, Nat.shiftRight_eq_div_pow]
  omega

theorem fieldNnn_toNat (op : Word) : (fieldNnn op).toNat = op.toNat % 4096 := by
  simp only [fieldNnn, BitVec.extractLsb'_toNat, Nat.shiftRight_eq_div_pow]
  omega

/-! ### The formats as arithmetic -/

theorem wordA_toNat (f : BitVec 4) (nnn : BitVec 12) : (wordA f nnn).toNat = f.toNat * 4096 + nnn.toNat :=
  toNat_append f nnn

theorem wordXK_toNat (f : BitVec 4) (x : RegIx) (kk : Byte) :
    (wordXK f x kk).toNat = f.toNat * 4096 + x.val * 256 + kk.toNat := by
  have h : (wordXK f x kk).toNat = (f.toNat * 2 ^ 4 + x.val) * 2 ^ 8 + kk.toNat :=
    (toNat_append _ kk).trans (by rw [toNat_append]; rfl)
  rw [h]
  ring

theorem wordXYN_toNat (f : BitVec 4) (x y : RegIx) (n : BitVec 4) :
    (wordXYN f x y n).toNat = f.toNat * 4096 + x.val * 256 + y.val * 16 + n.toNat := by
  have h : (wordXYN f x y n).toNat = ((f.toNat * 2 ^ 4 + x.val) * 2 ^ 4 + y.val) * 2 ^ 4 + n.toNat :=
    (toNat_append _ n).trans (by rw [toNat_append, toNat_append]; rfl)
  rw [h]
  ring

theorem wordOfBytes_toNat (hi lo : Byte) : (wordOfBytes hi lo).toNat = hi.toNat * 256 + lo.toNat :=
  toNat_append hi lo

theorem wordHi_toNat (op : Word) : (wordHi op).toNat = op.toNat / 256 := by
  have := op.isLt
  simp only [wordHi, BitVec.extractLsb'_toNat, Nat.shiftRight_eq_div_pow]
  omega

theorem wordLo_toNat (op : Word) : (wordLo op).toNat = op.toNat % 256 := by
  simp only [wordLo, BitVec.extractLsb'_toNat, Nat.shiftRight_eq_div_pow]
  omega

/-! ### What a field reads from a format -/

@[simp] theorem fieldFamily_wordA (f : BitVec 4) (nnn : BitVec 12) : fieldFamily (wordA f nnn) = f.toNat := by
  rw [fieldFamily_eq, wordA_toNat]
  omega

@[simp] theorem fieldNnn_wordA (f : BitVec 4) (nnn : BitVec 12) : fieldNnn (wordA f nnn) = nnn := by
  apply BitVec.eq_of_toNat_eq
  rw [fieldNnn_toNat, wordA_toNat]
  omega

@[simp] theorem fieldFamily_wordXK (f : BitVec 4) (x : RegIx) (kk : Byte) :
    fieldFamily (wordXK f x kk) = f.toNat := by
  rw [fieldFamily_eq, wordXK_toNat]
  omega

@[simp] theorem fieldX_wordXK (f : BitVec 4) (x : RegIx) (kk : Byte) : fieldX (wordXK f x kk) = x := by
  apply Fin.ext
  rw [fieldX_val, wordXK_toNat]
  omega

@[simp] theorem fieldKk_wordXK (f : BitVec 4) (x : RegIx) (kk : Byte) : fieldKk (wordXK f x kk) = kk := by
  apply BitVec.eq_of_toNat_eq
  rw [fieldKk_toNat, wordXK_toNat]
  omega

@[simp] theorem fieldFamily_wordXYN (f : BitVec 4) (x y : RegIx) (n : BitVec 4) :
    fieldFamily (wordXYN f x y n) = f.toNat := by
  rw [fieldFamily_eq, wordXYN_toNat]
  omega

@[simp] theorem fieldX_wordXYN (f : BitVec 4) (x y : RegIx) (n : BitVec 4) : fieldX (wordXYN f x y n) = x := by
  apply Fin.ext
  rw [fieldX_val, wordXYN_toNat]
  omega

@[simp] theorem fieldY_wordXYN (f : BitVec 4) (x y : RegIx) (n : BitVec 4) : fieldY (wordXYN f x y n) = y := by
  apply Fin.ext
  rw [fieldY_val, wordXYN_toNat]
  omega

@[simp] theorem fieldN_wordXYN (f : BitVec 4) (x y : RegIx) (n : BitVec 4) : fieldN (wordXYN f x y n) = n := by
  apply BitVec.eq_of_toNat_eq
  rw [fieldN_toNat, wordXYN_toNat]
  omega

/-! ### Opcodes and bytes -/

@[simp] theorem wordOfBytes_hi_lo (op : Word) : wordOfBytes (wordHi op) (wordLo op) = op := by
  apply BitVec.eq_of_toNat_eq
  rw [wordOfBytes_toNat, wordHi_toNat, wordLo_toNat]
  omega

@[simp] theorem wordHi_wordOfBytes (hi lo : Byte) : wordHi (wordOfBytes hi lo) = hi := by
  apply BitVec.eq_of_toNat_eq
  rw [wordHi_toNat, wordOfBytes_toNat]
  omega

@[simp] theorem wordLo_wordOfBytes (hi lo : Byte) : wordLo (wordOfBytes hi lo) = lo := by
  apply BitVec.eq_of_toNat_eq
  rw [wordLo_toNat, wordOfBytes_toNat]
  omega

end Sys2Proof
end

