-- ==== Sys2Proof/Laws/State.lean ====
section
/-! SUPPORT. One lemma per field for every update of the state, so that no proof unfolds a record update. -/

namespace Sys2Proof.Machine

/-! ### `setV` -/

@[simp] theorem State.setV_V (s : State) (x : RegIx) (b : Byte) : (s.setV x b).V = s.V.set x b := rfl
@[simp] theorem State.setV_pc (s : State) (x : RegIx) (b : Byte) : (s.setV x b).pc = s.pc := rfl
@[simp] theorem State.setV_I (s : State) (x : RegIx) (b : Byte) : (s.setV x b).I = s.I := rfl
@[simp] theorem State.setV_sp (s : State) (x : RegIx) (b : Byte) : (s.setV x b).sp = s.sp := rfl
@[simp] theorem State.setV_stack (s : State) (x : RegIx) (b : Byte) : (s.setV x b).stack = s.stack := rfl
@[simp] theorem State.setV_DT (s : State) (x : RegIx) (b : Byte) : (s.setV x b).DT = s.DT := rfl
@[simp] theorem State.setV_ST (s : State) (x : RegIx) (b : Byte) : (s.setV x b).ST = s.ST := rfl
@[simp] theorem State.setV_mem (s : State) (x : RegIx) (b : Byte) : (s.setV x b).mem = s.mem := rfl
@[simp] theorem State.setV_FB (s : State) (x : RegIx) (b : Byte) : (s.setV x b).FB = s.FB := rfl
@[simp] theorem State.setV_key (s : State) (x : RegIx) (b : Byte) : (s.setV x b).key = s.key := rfl
@[simp] theorem State.setV_released (s : State) (x : RegIx) (b : Byte) : (s.setV x b).released = s.released := rfl
@[simp] theorem State.setV_run (s : State) (x : RegIx) (b : Byte) : (s.setV x b).run = s.run := rfl
@[simp] theorem State.setV_frameAcc (s : State) (x : RegIx) (b : Byte) : (s.setV x b).frameAcc = s.frameAcc := rfl
@[simp] theorem State.setV_audioOn (s : State) (x : RegIx) (b : Byte) : (s.setV x b).audioOn = s.audioOn := rfl
@[simp] theorem State.setV_cfg (s : State) (x : RegIx) (b : Byte) : (s.setV x b).cfg = s.cfg := rfl
@[simp] theorem State.setV_inputs (s : State) (x : RegIx) (b : Byte) : (s.setV x b).inputs = s.inputs := rfl
@[simp] theorem State.setV_iter (s : State) (x : RegIx) (b : Byte) : (s.setV x b).iter = s.iter := rfl
@[simp] theorem State.setV_rand (s : State) (x : RegIx) (b : Byte) : (s.setV x b).rand = s.rand := rfl
@[simp] theorem State.setV_out (s : State) (x : RegIx) (b : Byte) : (s.setV x b).out = s.out := rfl

/-! ### `setFlag` -/

@[simp] theorem State.setFlag_V (s : State) (c : Bool) : (s.setFlag c).V = s.V.set vF (flagByte c) := rfl
@[simp] theorem State.setFlag_pc (s : State) (c : Bool) : (s.setFlag c).pc = s.pc := rfl
@[simp] theorem State.setFlag_I (s : State) (c : Bool) : (s.setFlag c).I = s.I := rfl
@[simp] theorem State.setFlag_sp (s : State) (c : Bool) : (s.setFlag c).sp = s.sp := rfl
@[simp] theorem State.setFlag_stack (s : State) (c : Bool) : (s.setFlag c).stack = s.stack := rfl
@[simp] theorem State.setFlag_DT (s : State) (c : Bool) : (s.setFlag c).DT = s.DT := rfl
@[simp] theorem State.setFlag_ST (s : State) (c : Bool) : (s.setFlag c).ST = s.ST := rfl
@[simp] theorem State.setFlag_mem (s : State) (c : Bool) : (s.setFlag c).mem = s.mem := rfl
@[simp] theorem State.setFlag_FB (s : State) (c : Bool) : (s.setFlag c).FB = s.FB := rfl
@[simp] theorem State.setFlag_key (s : State) (c : Bool) : (s.setFlag c).key = s.key := rfl
@[simp] theorem State.setFlag_released (s : State) (c : Bool) : (s.setFlag c).released = s.released := rfl
@[simp] theorem State.setFlag_run (s : State) (c : Bool) : (s.setFlag c).run = s.run := rfl
@[simp] theorem State.setFlag_frameAcc (s : State) (c : Bool) : (s.setFlag c).frameAcc = s.frameAcc := rfl
@[simp] theorem State.setFlag_audioOn (s : State) (c : Bool) : (s.setFlag c).audioOn = s.audioOn := rfl
@[simp] theorem State.setFlag_cfg (s : State) (c : Bool) : (s.setFlag c).cfg = s.cfg := rfl
@[simp] theorem State.setFlag_inputs (s : State) (c : Bool) : (s.setFlag c).inputs = s.inputs := rfl
@[simp] theorem State.setFlag_iter (s : State) (c : Bool) : (s.setFlag c).iter = s.iter := rfl
@[simp] theorem State.setFlag_rand (s : State) (c : Bool) : (s.setFlag c).rand = s.rand := rfl
@[simp] theorem State.setFlag_out (s : State) (c : Bool) : (s.setFlag c).out = s.out := rfl

/-! ### `setResultAndFlag` -/

@[simp] theorem State.setResultAndFlag_V (s : State) (x : RegIx) (b : Byte) (c : Bool) : (s.setResultAndFlag x b c).V = (s.V.set x b).set vF (flagByte c) := rfl
@[simp] theorem State.setResultAndFlag_pc (s : State) (x : RegIx) (b : Byte) (c : Bool) : (s.setResultAndFlag x b c).pc = s.pc := rfl
@[simp] theorem State.setResultAndFlag_I (s : State) (x : RegIx) (b : Byte) (c : Bool) : (s.setResultAndFlag x b c).I = s.I := rfl
@[simp] theorem State.setResultAndFlag_sp (s : State) (x : RegIx) (b : Byte) (c : Bool) : (s.setResultAndFlag x b c).sp = s.sp := rfl
@[simp] theorem State.setResultAndFlag_stack (s : State) (x : RegIx) (b : Byte) (c : Bool) : (s.setResultAndFlag x b c).stack = s.stack := rfl
@[simp] theorem State.setResultAndFlag_DT (s : State) (x : RegIx) (b : Byte) (c : Bool) : (s.setResultAndFlag x b c).DT = s.DT := rfl
@[simp] theorem State.setResultAndFlag_ST (s : State) (x : RegIx) (b : Byte) (c : Bool) : (s.setResultAndFlag x b c).ST = s.ST := rfl
@[simp] theorem State.setResultAndFlag_mem (s : State) (x : RegIx) (b : Byte) (c : Bool) : (s.setResultAndFlag x b c).mem = s.mem := rfl
@[simp] theorem State.setResultAndFlag_FB (s : State) (x : RegIx) (b : Byte) (c : Bool) : (s.setResultAndFlag x b c).FB = s.FB := rfl
@[simp] theorem State.setResultAndFlag_key (s : State) (x : RegIx) (b : Byte) (c : Bool) : (s.setResultAndFlag x b c).key = s.key := rfl
@[simp] theorem State.setResultAndFlag_released (s : State) (x : RegIx) (b : Byte) (c : Bool) : (s.setResultAndFlag x b c).released = s.released := rfl
@[simp] theorem State.setResultAndFlag_run (s : State) (x : RegIx) (b : Byte) (c : Bool) : (s.setResultAndFlag x b c).run = s.run := rfl
@[simp] theorem State.setResultAndFlag_frameAcc (s : State) (x : RegIx) (b : Byte) (c : Bool) : (s.setResultAndFlag x b c).frameAcc = s.frameAcc := rfl
@[simp] theorem State.setResultAndFlag_audioOn (s : State) (x : RegIx) (b : Byte) (c : Bool) : (s.setResultAndFlag x b c).audioOn = s.audioOn := rfl
@[simp] theorem State.setResultAndFlag_cfg (s : State) (x : RegIx) (b : Byte) (c : Bool) : (s.setResultAndFlag x b c).cfg = s.cfg := rfl
@[simp] theorem State.setResultAndFlag_inputs (s : State) (x : RegIx) (b : Byte) (c : Bool) : (s.setResultAndFlag x b c).inputs = s.inputs := rfl
@[simp] theorem State.setResultAndFlag_iter (s : State) (x : RegIx) (b : Byte) (c : Bool) : (s.setResultAndFlag x b c).iter = s.iter := rfl
@[simp] theorem State.setResultAndFlag_rand (s : State) (x : RegIx) (b : Byte) (c : Bool) : (s.setResultAndFlag x b c).rand = s.rand := rfl
@[simp] theorem State.setResultAndFlag_out (s : State) (x : RegIx) (b : Byte) (c : Bool) : (s.setResultAndFlag x b c).out = s.out := rfl

/-! ### `setPc` -/

@[simp] theorem State.setPc_V (s : State) (w : Word) : (s.setPc w).V = s.V := rfl
@[simp] theorem State.setPc_pc (s : State) (w : Word) : (s.setPc w).pc = w := rfl
@[simp] theorem State.setPc_I (s : State) (w : Word) : (s.setPc w).I = s.I := rfl
@[simp] theorem State.setPc_sp (s : State) (w : Word) : (s.setPc w).sp = s.sp := rfl
@[simp] theorem State.setPc_stack (s : State) (w : Word) : (s.setPc w).stack = s.stack := rfl
@[simp] theorem State.setPc_DT (s : State) (w : Word) : (s.setPc w).DT = s.DT := rfl
@[simp] theorem State.setPc_ST (s : State) (w : Word) : (s.setPc w).ST = s.ST := rfl
@[simp] theorem State.setPc_mem (s : State) (w : Word) : (s.setPc w).mem = s.mem := rfl
@[simp] theorem State.setPc_FB (s : State) (w : Word) : (s.setPc w).FB = s.FB := rfl
@[simp] theorem State.setPc_key (s : State) (w : Word) : (s.setPc w).key = s.key := rfl
@[simp] theorem State.setPc_released (s : State) (w : Word) : (s.setPc w).released = s.released := rfl
@[simp] theorem State.setPc_run (s : State) (w : Word) : (s.setPc w).run = s.run := rfl
@[simp] theorem State.setPc_frameAcc (s : State) (w : Word) : (s.setPc w).frameAcc = s.frameAcc := rfl
@[simp] theorem State.setPc_audioOn (s : State) (w : Word) : (s.setPc w).audioOn = s.audioOn := rfl
@[simp] theorem State.setPc_cfg (s : State) (w : Word) : (s.setPc w).cfg = s.cfg := rfl
@[simp] theorem State.setPc_inputs (s : State) (w : Word) : (s.setPc w).inputs = s.inputs := rfl
@[simp] theorem State.setPc_iter (s : State) (w : Word) : (s.setPc w).iter = s.iter := rfl
@[simp] theorem State.setPc_rand (s : State) (w : Word) : (s.setPc w).rand = s.rand := rfl
@[simp] theorem State.setPc_out (s : State) (w : Word) : (s.setPc w).out = s.out := rfl

/-! ### `setI` -/

@[simp] theorem State.setI_V (s : State) (w : Word) : (s.setI w).V = s.V := rfl
@[simp] theorem State.setI_pc (s : State) (w : Word) : (s.setI w).pc = s.pc := rfl
@[simp] theorem State.setI_I (s : State) (w : Word) : (s.setI w).I = w := rfl
@[simp] theorem State.setI_sp (s : State) (w : Word) : (s.setI w).sp = s.sp := rfl
@[simp] theorem State.setI_stack (s : State) (w : Word) : (s.setI w).stack = s.stack := rfl
@[simp] theorem State.setI_DT (s : State) (w : Word) : (s.setI w).DT = s.DT := rfl
@[simp] theorem State.setI_ST (s : State) (w : Word) : (s.setI w).ST = s.ST := rfl
@[simp] theorem State.setI_mem (s : State) (w : Word) : (s.setI w).mem = s.mem := rfl
@[simp] theorem State.setI_FB (s : State) (w : Word) : (s.setI w).FB = s.FB := rfl
@[simp] theorem State.setI_key (s : State) (w : Word) : (s.setI w).key = s.key := rfl
@[simp] theorem State.setI_released (s : State) (w : Word) : (s.setI w).released = s.released := rfl
@[simp] theorem State.setI_run (s : State) (w : Word) : (s.setI w).run = s.run := rfl
@[simp] theorem State.setI_frameAcc (s : State) (w : Word) : (s.setI w).frameAcc = s.frameAcc := rfl
@[simp] theorem State.setI_audioOn (s : State) (w : Word) : (s.setI w).audioOn = s.audioOn := rfl
@[simp] theorem State.setI_cfg (s : State) (w : Word) : (s.setI w).cfg = s.cfg := rfl
@[simp] theorem State.setI_inputs (s : State) (w : Word) : (s.setI w).inputs = s.inputs := rfl
@[simp] theorem State.setI_iter (s : State) (w : Word) : (s.setI w).iter = s.iter := rfl
@[simp] theorem State.setI_rand (s : State) (w : Word) : (s.setI w).rand = s.rand := rfl
@[simp] theorem State.setI_out (s : State) (w : Word) : (s.setI w).out = s.out := rfl

/-! ### `setDT` -/

@[simp] theorem State.setDT_V (s : State) (b : Byte) : (s.setDT b).V = s.V := rfl
@[simp] theorem State.setDT_pc (s : State) (b : Byte) : (s.setDT b).pc = s.pc := rfl
@[simp] theorem State.setDT_I (s : State) (b : Byte) : (s.setDT b).I = s.I := rfl
@[simp] theorem State.setDT_sp (s : State) (b : Byte) : (s.setDT b).sp = s.sp := rfl
@[simp] theorem State.setDT_stack (s : State) (b : Byte) : (s.setDT b).stack = s.stack := rfl
@[simp] theorem State.setDT_DT (s : State) (b : Byte) : (s.setDT b).DT = b := rfl
@[simp] theorem State.setDT_ST (s : State) (b : Byte) : (s.setDT b).ST = s.ST := rfl
@[simp] theorem State.setDT_mem (s : State) (b : Byte) : (s.setDT b).mem = s.mem := rfl
@[simp] theorem State.setDT_FB (s : State) (b : Byte) : (s.setDT b).FB = s.FB := rfl
@[simp] theorem State.setDT_key (s : State) (b : Byte) : (s.setDT b).key = s.key := rfl
@[simp] theorem State.setDT_released (s : State) (b : Byte) : (s.setDT b).released = s.released := rfl
@[simp] theorem State.setDT_run (s : State) (b : Byte) : (s.setDT b).run = s.run := rfl
@[simp] theorem State.setDT_frameAcc (s : State) (b : Byte) : (s.setDT b).frameAcc = s.frameAcc := rfl
@[simp] theorem State.setDT_audioOn (s : State) (b : Byte) : (s.setDT b).audioOn = s.audioOn := rfl
@[simp] theorem State.setDT_cfg (s : State) (b : Byte) : (s.setDT b).cfg = s.cfg := rfl
@[simp] theorem State.setDT_inputs (s : State) (b : Byte) : (s.setDT b).inputs = s.inputs := rfl
@[simp] theorem State.setDT_iter (s : State) (b : Byte) : (s.setDT b).iter = s.iter := rfl
@[simp] theorem State.setDT_rand (s : State) (b : Byte) : (s.setDT b).rand = s.rand := rfl
@[simp] theorem State.setDT_out (s : State) (b : Byte) : (s.setDT b).out = s.out := rfl

/-! ### `setST` -/

@[simp] theorem State.setST_V (s : State) (b : Byte) : (s.setST b).V = s.V := rfl
@[simp] theorem State.setST_pc (s : State) (b : Byte) : (s.setST b).pc = s.pc := rfl
@[simp] theorem State.setST_I (s : State) (b : Byte) : (s.setST b).I = s.I := rfl
@[simp] theorem State.setST_sp (s : State) (b : Byte) : (s.setST b).sp = s.sp := rfl
@[simp] theorem State.setST_stack (s : State) (b : Byte) : (s.setST b).stack = s.stack := rfl
@[simp] theorem State.setST_DT (s : State) (b : Byte) : (s.setST b).DT = s.DT := rfl
@[simp] theorem State.setST_ST (s : State) (b : Byte) : (s.setST b).ST = b := rfl
@[simp] theorem State.setST_mem (s : State) (b : Byte) : (s.setST b).mem = s.mem := rfl
@[simp] theorem State.setST_FB (s : State) (b : Byte) : (s.setST b).FB = s.FB := rfl
@[simp] theorem State.setST_key (s : State) (b : Byte) : (s.setST b).key = s.key := rfl
@[simp] theorem State.setST_released (s : State) (b : Byte) : (s.setST b).released = s.released := rfl
@[simp] theorem State.setST_run (s : State) (b : Byte) : (s.setST b).run = s.run := rfl
@[simp] theorem State.setST_frameAcc (s : State) (b : Byte) : (s.setST b).frameAcc = s.frameAcc := rfl
@[simp] theorem State.setST_audioOn (s : State) (b : Byte) : (s.setST b).audioOn = s.audioOn := rfl
@[simp] theorem State.setST_cfg (s : State) (b : Byte) : (s.setST b).cfg = s.cfg := rfl
@[simp] theorem State.setST_inputs (s : State) (b : Byte) : (s.setST b).inputs = s.inputs := rfl
@[simp] theorem State.setST_iter (s : State) (b : Byte) : (s.setST b).iter = s.iter := rfl
@[simp] theorem State.setST_rand (s : State) (b : Byte) : (s.setST b).rand = s.rand := rfl
@[simp] theorem State.setST_out (s : State) (b : Byte) : (s.setST b).out = s.out := rfl

/-! ### `setFB` -/

@[simp] theorem State.setFB_V (s : State) (f : Framebuffer) : (s.setFB f).V = s.V := rfl
@[simp] theorem State.setFB_pc (s : State) (f : Framebuffer) : (s.setFB f).pc = s.pc := rfl
@[simp] theorem State.setFB_I (s : State) (f : Framebuffer) : (s.setFB f).I = s.I := rfl
@[simp] theorem State.setFB_sp (s : State) (f : Framebuffer) : (s.setFB f).sp = s.sp := rfl
@[simp] theorem State.setFB_stack (s : State) (f : Framebuffer) : (s.setFB f).stack = s.stack := rfl
@[simp] theorem State.setFB_DT (s : State) (f : Framebuffer) : (s.setFB f).DT = s.DT := rfl
@[simp] theorem State.setFB_ST (s : State) (f : Framebuffer) : (s.setFB f).ST = s.ST := rfl
@[simp] theorem State.setFB_mem (s : State) (f : Framebuffer) : (s.setFB f).mem = s.mem := rfl
@[simp] theorem State.setFB_FB (s : State) (f : Framebuffer) : (s.setFB f).FB = f := rfl
@[simp] theorem State.setFB_key (s : State) (f : Framebuffer) : (s.setFB f).key = s.key := rfl
@[simp] theorem State.setFB_released (s : State) (f : Framebuffer) : (s.setFB f).released = s.released := rfl
@[simp] theorem State.setFB_run (s : State) (f : Framebuffer) : (s.setFB f).run = s.run := rfl
@[simp] theorem State.setFB_frameAcc (s : State) (f : Framebuffer) : (s.setFB f).frameAcc = s.frameAcc := rfl
@[simp] theorem State.setFB_audioOn (s : State) (f : Framebuffer) : (s.setFB f).audioOn = s.audioOn := rfl
@[simp] theorem State.setFB_cfg (s : State) (f : Framebuffer) : (s.setFB f).cfg = s.cfg := rfl
@[simp] theorem State.setFB_inputs (s : State) (f : Framebuffer) : (s.setFB f).inputs = s.inputs := rfl
@[simp] theorem State.setFB_iter (s : State) (f : Framebuffer) : (s.setFB f).iter = s.iter := rfl
@[simp] theorem State.setFB_rand (s : State) (f : Framebuffer) : (s.setFB f).rand = s.rand := rfl
@[simp] theorem State.setFB_out (s : State) (f : Framebuffer) : (s.setFB f).out = s.out := rfl

/-! ### `setReleased` -/

@[simp] theorem State.setReleased_V (s : State) (r : Option Key) : (s.setReleased r).V = s.V := rfl
@[simp] theorem State.setReleased_pc (s : State) (r : Option Key) : (s.setReleased r).pc = s.pc := rfl
@[simp] theorem State.setReleased_I (s : State) (r : Option Key) : (s.setReleased r).I = s.I := rfl
@[simp] theorem State.setReleased_sp (s : State) (r : Option Key) : (s.setReleased r).sp = s.sp := rfl
@[simp] theorem State.setReleased_stack (s : State) (r : Option Key) : (s.setReleased r).stack = s.stack := rfl
@[simp] theorem State.setReleased_DT (s : State) (r : Option Key) : (s.setReleased r).DT = s.DT := rfl
@[simp] theorem State.setReleased_ST (s : State) (r : Option Key) : (s.setReleased r).ST = s.ST := rfl
@[simp] theorem State.setReleased_mem (s : State) (r : Option Key) : (s.setReleased r).mem = s.mem := rfl
@[simp] theorem State.setReleased_FB (s : State) (r : Option Key) : (s.setReleased r).FB = s.FB := rfl
@[simp] theorem State.setReleased_key (s : State) (r : Option Key) : (s.setReleased r).key = s.key := rfl
@[simp] theorem State.setReleased_released (s : State) (r : Option Key) : (s.setReleased r).released = r := rfl
@[simp] theorem State.setReleased_run (s : State) (r : Option Key) : (s.setReleased r).run = s.run := rfl
@[simp] theorem State.setReleased_frameAcc (s : State) (r : Option Key) : (s.setReleased r).frameAcc = s.frameAcc := rfl
@[simp] theorem State.setReleased_audioOn (s : State) (r : Option Key) : (s.setReleased r).audioOn = s.audioOn := rfl
@[simp] theorem State.setReleased_cfg (s : State) (r : Option Key) : (s.setReleased r).cfg = s.cfg := rfl
@[simp] theorem State.setReleased_inputs (s : State) (r : Option Key) : (s.setReleased r).inputs = s.inputs := rfl
@[simp] theorem State.setReleased_iter (s : State) (r : Option Key) : (s.setReleased r).iter = s.iter := rfl
@[simp] theorem State.setReleased_rand (s : State) (r : Option Key) : (s.setReleased r).rand = s.rand := rfl
@[simp] theorem State.setReleased_out (s : State) (r : Option Key) : (s.setReleased r).out = s.out := rfl

/-! ### `setRun` -/

@[simp] theorem State.setRun_V (s : State) (r : RunState) : (s.setRun r).V = s.V := rfl
@[simp] theorem State.setRun_pc (s : State) (r : RunState) : (s.setRun r).pc = s.pc := rfl
@[simp] theorem State.setRun_I (s : State) (r : RunState) : (s.setRun r).I = s.I := rfl
@[simp] theorem State.setRun_sp (s : State) (r : RunState) : (s.setRun r).sp = s.sp := rfl
@[simp] theorem State.setRun_stack (s : State) (r : RunState) : (s.setRun r).stack = s.stack := rfl
@[simp] theorem State.setRun_DT (s : State) (r : RunState) : (s.setRun r).DT = s.DT := rfl
@[simp] theorem State.setRun_ST (s : State) (r : RunState) : (s.setRun r).ST = s.ST := rfl
@[simp] theorem State.setRun_mem (s : State) (r : RunState) : (s.setRun r).mem = s.mem := rfl
@[simp] theorem State.setRun_FB (s : State) (r : RunState) : (s.setRun r).FB = s.FB := rfl
@[simp] theorem State.setRun_key (s : State) (r : RunState) : (s.setRun r).key = s.key := rfl
@[simp] theorem State.setRun_released (s : State) (r : RunState) : (s.setRun r).released = s.released := rfl
@[simp] theorem State.setRun_run (s : State) (r : RunState) : (s.setRun r).run = r := rfl
@[simp] theorem State.setRun_frameAcc (s : State) (r : RunState) : (s.setRun r).frameAcc = s.frameAcc := rfl
@[simp] theorem State.setRun_audioOn (s : State) (r : RunState) : (s.setRun r).audioOn = s.audioOn := rfl
@[simp] theorem State.setRun_cfg (s : State) (r : RunState) : (s.setRun r).cfg = s.cfg := rfl
@[simp] theorem State.setRun_inputs (s : State) (r : RunState) : (s.setRun r).inputs = s.inputs := rfl
@[simp] theorem State.setRun_iter (s : State) (r : RunState) : (s.setRun r).iter = s.iter := rfl
@[simp] theorem State.setRun_rand (s : State) (r : RunState) : (s.setRun r).rand = s.rand := rfl
@[simp] theorem State.setRun_out (s : State) (r : RunState) : (s.setRun r).out = s.out := rfl

/-! ### `storeByte` -/

@[simp] theorem State.storeByte_V (s : State) (a : Nat) (b : Byte) : (s.storeByte a b).V = s.V := rfl
@[simp] theorem State.storeByte_pc (s : State) (a : Nat) (b : Byte) : (s.storeByte a b).pc = s.pc := rfl
@[simp] theorem State.storeByte_I (s : State) (a : Nat) (b : Byte) : (s.storeByte a b).I = s.I := rfl
@[simp] theorem State.storeByte_sp (s : State) (a : Nat) (b : Byte) : (s.storeByte a b).sp = s.sp := rfl
@[simp] theorem State.storeByte_stack (s : State) (a : Nat) (b : Byte) : (s.storeByte a b).stack = s.stack := rfl
@[simp] theorem State.storeByte_DT (s : State) (a : Nat) (b : Byte) : (s.storeByte a b).DT = s.DT := rfl
@[simp] theorem State.storeByte_ST (s : State) (a : Nat) (b : Byte) : (s.storeByte a b).ST = s.ST := rfl
@[simp] theorem State.storeByte_mem (s : State) (a : Nat) (b : Byte) : (s.storeByte a b).mem = s.mem.write s.cfg.resetByte a b := rfl
@[simp] theorem State.storeByte_FB (s : State) (a : Nat) (b : Byte) : (s.storeByte a b).FB = s.FB := rfl
@[simp] theorem State.storeByte_key (s : State) (a : Nat) (b : Byte) : (s.storeByte a b).key = s.key := rfl
@[simp] theorem State.storeByte_released (s : State) (a : Nat) (b : Byte) : (s.storeByte a b).released = s.released := rfl
@[simp] theorem State.storeByte_run (s : State) (a : Nat) (b : Byte) : (s.storeByte a b).run = s.run := rfl
@[simp] theorem State.storeByte_frameAcc (s : State) (a : Nat) (b : Byte) : (s.storeByte a b).frameAcc = s.frameAcc := rfl
@[simp] theorem State.storeByte_audioOn (s : State) (a : Nat) (b : Byte) : (s.storeByte a b).audioOn = s.audioOn := rfl
@[simp] theorem State.storeByte_cfg (s : State) (a : Nat) (b : Byte) : (s.storeByte a b).cfg = s.cfg := rfl
@[simp] theorem State.storeByte_inputs (s : State) (a : Nat) (b : Byte) : (s.storeByte a b).inputs = s.inputs := rfl
@[simp] theorem State.storeByte_iter (s : State) (a : Nat) (b : Byte) : (s.storeByte a b).iter = s.iter := rfl
@[simp] theorem State.storeByte_rand (s : State) (a : Nat) (b : Byte) : (s.storeByte a b).rand = s.rand := rfl
@[simp] theorem State.storeByte_out (s : State) (a : Nat) (b : Byte) : (s.storeByte a b).out = s.out := rfl

/-! ### `loadRegs` -/

@[simp] theorem State.loadRegs_V (s : State) (x : RegIx) : (s.loadRegs x).V = Vector.ofFn fun k => if k ≤ x then s.byteAt (s.ea k.val) else s.getV k := rfl
@[simp] theorem State.loadRegs_pc (s : State) (x : RegIx) : (s.loadRegs x).pc = s.pc := rfl
@[simp] theorem State.loadRegs_I (s : State) (x : RegIx) : (s.loadRegs x).I = s.I := rfl
@[simp] theorem State.loadRegs_sp (s : State) (x : RegIx) : (s.loadRegs x).sp = s.sp := rfl
@[simp] theorem State.loadRegs_stack (s : State) (x : RegIx) : (s.loadRegs x).stack = s.stack := rfl
@[simp] theorem State.loadRegs_DT (s : State) (x : RegIx) : (s.loadRegs x).DT = s.DT := rfl
@[simp] theorem State.loadRegs_ST (s : State) (x : RegIx) : (s.loadRegs x).ST = s.ST := rfl
@[simp] theorem State.loadRegs_mem (s : State) (x : RegIx) : (s.loadRegs x).mem = s.mem := rfl
@[simp] theorem State.loadRegs_FB (s : State) (x : RegIx) : (s.loadRegs x).FB = s.FB := rfl
@[simp] theorem State.loadRegs_key (s : State) (x : RegIx) : (s.loadRegs x).key = s.key := rfl
@[simp] theorem State.loadRegs_released (s : State) (x : RegIx) : (s.loadRegs x).released = s.released := rfl
@[simp] theorem State.loadRegs_run (s : State) (x : RegIx) : (s.loadRegs x).run = s.run := rfl
@[simp] theorem State.loadRegs_frameAcc (s : State) (x : RegIx) : (s.loadRegs x).frameAcc = s.frameAcc := rfl
@[simp] theorem State.loadRegs_audioOn (s : State) (x : RegIx) : (s.loadRegs x).audioOn = s.audioOn := rfl
@[simp] theorem State.loadRegs_cfg (s : State) (x : RegIx) : (s.loadRegs x).cfg = s.cfg := rfl
@[simp] theorem State.loadRegs_inputs (s : State) (x : RegIx) : (s.loadRegs x).inputs = s.inputs := rfl
@[simp] theorem State.loadRegs_iter (s : State) (x : RegIx) : (s.loadRegs x).iter = s.iter := rfl
@[simp] theorem State.loadRegs_rand (s : State) (x : RegIx) : (s.loadRegs x).rand = s.rand := rfl
@[simp] theorem State.loadRegs_out (s : State) (x : RegIx) : (s.loadRegs x).out = s.out := rfl

/-! ### `beginIteration` -/

@[simp] theorem State.beginIteration_V (s : State) : (s.beginIteration).V = s.V := rfl
@[simp] theorem State.beginIteration_pc (s : State) : (s.beginIteration).pc = s.pc := rfl
@[simp] theorem State.beginIteration_I (s : State) : (s.beginIteration).I = s.I := rfl
@[simp] theorem State.beginIteration_sp (s : State) : (s.beginIteration).sp = s.sp := rfl
@[simp] theorem State.beginIteration_stack (s : State) : (s.beginIteration).stack = s.stack := rfl
@[simp] theorem State.beginIteration_DT (s : State) : (s.beginIteration).DT = s.DT := rfl
@[simp] theorem State.beginIteration_ST (s : State) : (s.beginIteration).ST = s.ST := rfl
@[simp] theorem State.beginIteration_mem (s : State) : (s.beginIteration).mem = s.mem := rfl
@[simp] theorem State.beginIteration_FB (s : State) : (s.beginIteration).FB = s.FB := rfl
@[simp] theorem State.beginIteration_key (s : State) : (s.beginIteration).key = s.key := rfl
@[simp] theorem State.beginIteration_released (s : State) : (s.beginIteration).released = s.released := rfl
@[simp] theorem State.beginIteration_run (s : State) : (s.beginIteration).run = s.run := rfl
@[simp] theorem State.beginIteration_frameAcc (s : State) : (s.beginIteration).frameAcc = s.frameAcc := rfl
@[simp] theorem State.beginIteration_audioOn (s : State) : (s.beginIteration).audioOn = s.audioOn := rfl
@[simp] theorem State.beginIteration_cfg (s : State) : (s.beginIteration).cfg = s.cfg := rfl
@[simp] theorem State.beginIteration_inputs (s : State) : (s.beginIteration).inputs = s.inputs.tail := rfl
@[simp] theorem State.beginIteration_iter (s : State) : (s.beginIteration).iter = s.iter + 1 := rfl
@[simp] theorem State.beginIteration_rand (s : State) : (s.beginIteration).rand = s.rand := rfl
@[simp] theorem State.beginIteration_out (s : State) : (s.beginIteration).out = Output.none := rfl

/-! ### `quit` -/

@[simp] theorem State.quit_V (s : State) : (s.quit).V = s.V := rfl
@[simp] theorem State.quit_pc (s : State) : (s.quit).pc = s.pc := rfl
@[simp] theorem State.quit_I (s : State) : (s.quit).I = s.I := rfl
@[simp] theorem State.quit_sp (s : State) : (s.quit).sp = s.sp := rfl
@[simp] theorem State.quit_stack (s : State) : (s.quit).stack = s.stack := rfl
@[simp] theorem State.quit_DT (s : State) : (s.quit).DT = s.DT := rfl
@[simp] theorem State.quit_ST (s : State) : (s.quit).ST = s.ST := rfl
@[simp] theorem State.quit_mem (s : State) : (s.quit).mem = s.mem := rfl
@[simp] theorem State.quit_FB (s : State) : (s.quit).FB = s.FB := rfl
@[simp] theorem State.quit_key (s : State) : (s.quit).key = s.key := rfl
@[simp] theorem State.quit_released (s : State) : (s.quit).released = s.released := rfl
@[simp] theorem State.quit_run (s : State) : (s.quit).run = .ended := rfl
@[simp] theorem State.quit_frameAcc (s : State) : (s.quit).frameAcc = s.frameAcc := rfl
@[simp] theorem State.quit_audioOn (s : State) : (s.quit).audioOn = s.audioOn := rfl
@[simp] theorem State.quit_cfg (s : State) : (s.quit).cfg = s.cfg := rfl
@[simp] theorem State.quit_inputs (s : State) : (s.quit).inputs = s.inputs := rfl
@[simp] theorem State.quit_iter (s : State) : (s.quit).iter = s.iter := rfl
@[simp] theorem State.quit_rand (s : State) : (s.quit).rand = s.rand := rfl
@[simp] theorem State.quit_out (s : State) : (s.quit).out = s.out := rfl

/-! ### `poll` -/

@[simp] theorem State.poll_V (s : State) (inp : Input) : (s.poll inp).V = s.V := rfl
@[simp] theorem State.poll_pc (s : State) (inp : Input) : (s.poll inp).pc = s.pc := rfl
@[simp] theorem State.poll_I (s : State) (inp : Input) : (s.poll inp).I = s.I := rfl
@[simp] theorem State.poll_sp (s : State) (inp : Input) : (s.poll inp).sp = s.sp := rfl
@[simp] theorem State.poll_stack (s : State) (inp : Input) : (s.poll inp).stack = s.stack := rfl
@[simp] theorem State.poll_DT (s : State) (inp : Input) : (s.poll inp).DT = s.DT := rfl
@[simp] theorem State.poll_ST (s : State) (inp : Input) : (s.poll inp).ST = s.ST := rfl
@[simp] theorem State.poll_mem (s : State) (inp : Input) : (s.poll inp).mem = s.mem := rfl
@[simp] theorem State.poll_FB (s : State) (inp : Input) : (s.poll inp).FB = s.FB := rfl
@[simp] theorem State.poll_key (s : State) (inp : Input) : (s.poll inp).key = inp.keys := rfl
@[simp] theorem State.poll_released (s : State) (inp : Input) : (s.poll inp).released = inp.release.or s.released := by
  cases h : inp.release <;> simp [State.poll, h]
@[simp] theorem State.poll_run (s : State) (inp : Input) : (s.poll inp).run = s.run := rfl
@[simp] theorem State.poll_frameAcc (s : State) (inp : Input) : (s.poll inp).frameAcc = s.frameAcc := rfl
@[simp] theorem State.poll_audioOn (s : State) (inp : Input) : (s.poll inp).audioOn = s.audioOn := rfl
@[simp] theorem State.poll_cfg (s : State) (inp : Input) : (s.poll inp).cfg = s.cfg := rfl
@[simp] theorem State.poll_inputs (s : State) (inp : Input) : (s.poll inp).inputs = s.inputs := rfl
@[simp] theorem State.poll_iter (s : State) (inp : Input) : (s.poll inp).iter = s.iter := rfl
@[simp] theorem State.poll_rand (s : State) (inp : Input) : (s.poll inp).rand = inp.rand := rfl
@[simp] theorem State.poll_out (s : State) (inp : Input) : (s.poll inp).out = s.out := rfl

/-! ### `advance` -/

@[simp] theorem State.advance_V (s : State) : (s.advance).V = s.V := rfl
@[simp] theorem State.advance_pc (s : State) : (s.advance).pc = s.pc + 2 := rfl
@[simp] theorem State.advance_I (s : State) : (s.advance).I = s.I := rfl
@[simp] theorem State.advance_sp (s : State) : (s.advance).sp = s.sp := rfl
@[simp] theorem State.advance_stack (s : State) : (s.advance).stack = s.stack := rfl
@[simp] theorem State.advance_DT (s : State) : (s.advance).DT = s.DT := rfl
@[simp] theorem State.advance_ST (s : State) : (s.advance).ST = s.ST := rfl
@[simp] theorem State.advance_mem (s : State) : (s.advance).mem = s.mem := rfl
@[simp] theorem State.advance_FB (s : State) : (s.advance).FB = s.FB := rfl
@[simp] theorem State.advance_key (s : State) : (s.advance).key = s.key := rfl
@[simp] theorem State.advance_released (s : State) : (s.advance).released = s.released := rfl
@[simp] theorem State.advance_run (s : State) : (s.advance).run = s.run := rfl
@[simp] theorem State.advance_frameAcc (s : State) : (s.advance).frameAcc = s.frameAcc := rfl
@[simp] theorem State.advance_audioOn (s : State) : (s.advance).audioOn = s.audioOn := rfl
@[simp] theorem State.advance_cfg (s : State) : (s.advance).cfg = s.cfg := rfl
@[simp] theorem State.advance_inputs (s : State) : (s.advance).inputs = s.inputs := rfl
@[simp] theorem State.advance_iter (s : State) : (s.advance).iter = s.iter := rfl
@[simp] theorem State.advance_rand (s : State) : (s.advance).rand = s.rand := rfl
@[simp] theorem State.advance_out (s : State) : (s.advance).out = s.out := rfl

/-! ### `logUnrecognized` -/

@[simp] theorem State.logUnrecognized_V (s : State) (op : Word) : (s.logUnrecognized op).V = s.V := rfl
@[simp] theorem State.logUnrecognized_pc (s : State) (op : Word) : (s.logUnrecognized op).pc = s.pc := rfl
@[simp] theorem State.logUnrecognized_I (s : State) (op : Word) : (s.logUnrecognized op).I = s.I := rfl
@[simp] theorem State.logUnrecognized_sp (s : State) (op : Word) : (s.logUnrecognized op).sp = s.sp := rfl
@[simp] theorem State.logUnrecognized_stack (s : State) (op : Word) : (s.logUnrecognized op).stack = s.stack := rfl
@[simp] theorem State.logUnrecognized_DT (s : State) (op : Word) : (s.logUnrecognized op).DT = s.DT := rfl
@[simp] theorem State.logUnrecognized_ST (s : State) (op : Word) : (s.logUnrecognized op).ST = s.ST := rfl
@[simp] theorem State.logUnrecognized_mem (s : State) (op : Word) : (s.logUnrecognized op).mem = s.mem := rfl
@[simp] theorem State.logUnrecognized_FB (s : State) (op : Word) : (s.logUnrecognized op).FB = s.FB := rfl
@[simp] theorem State.logUnrecognized_key (s : State) (op : Word) : (s.logUnrecognized op).key = s.key := rfl
@[simp] theorem State.logUnrecognized_released (s : State) (op : Word) : (s.logUnrecognized op).released = s.released := rfl
@[simp] theorem State.logUnrecognized_run (s : State) (op : Word) : (s.logUnrecognized op).run = s.run := rfl
@[simp] theorem State.logUnrecognized_frameAcc (s : State) (op : Word) : (s.logUnrecognized op).frameAcc = s.frameAcc := rfl
@[simp] theorem State.logUnrecognized_audioOn (s : State) (op : Word) : (s.logUnrecognized op).audioOn = s.audioOn := rfl
@[simp] theorem State.logUnrecognized_cfg (s : State) (op : Word) : (s.logUnrecognized op).cfg = s.cfg := rfl
@[simp] theorem State.logUnrecognized_inputs (s : State) (op : Word) : (s.logUnrecognized op).inputs = s.inputs := rfl
@[simp] theorem State.logUnrecognized_iter (s : State) (op : Word) : (s.logUnrecognized op).iter = s.iter := rfl
@[simp] theorem State.logUnrecognized_rand (s : State) (op : Word) : (s.logUnrecognized op).rand = s.rand := rfl
@[simp] theorem State.logUnrecognized_out (s : State) (op : Word) : (s.logUnrecognized op).out = { s.out with log := some op } := rfl

/-! ### `tick` -/

@[simp] theorem State.tick_V (s : State) : (s.tick).V = s.V := rfl
@[simp] theorem State.tick_pc (s : State) : (s.tick).pc = s.pc := rfl
@[simp] theorem State.tick_I (s : State) : (s.tick).I = s.I := rfl
@[simp] theorem State.tick_sp (s : State) : (s.tick).sp = s.sp := rfl
@[simp] theorem State.tick_stack (s : State) : (s.tick).stack = s.stack := rfl
@[simp] theorem State.tick_DT (s : State) : (s.tick).DT = timerDown s.DT := rfl
@[simp] theorem State.tick_ST (s : State) : (s.tick).ST = timerDown s.ST := rfl
@[simp] theorem State.tick_mem (s : State) : (s.tick).mem = s.mem := rfl
@[simp] theorem State.tick_FB (s : State) : (s.tick).FB = s.FB := rfl
@[simp] theorem State.tick_key (s : State) : (s.tick).key = s.key := rfl
@[simp] theorem State.tick_released (s : State) : (s.tick).released = s.released := rfl
@[simp] theorem State.tick_run (s : State) : (s.tick).run = s.run := rfl
@[simp] theorem State.tick_frameAcc (s : State) : (s.tick).frameAcc = 0 := rfl
@[simp] theorem State.tick_audioOn (s : State) : (s.tick).audioOn = s.audioOn := rfl
@[simp] theorem State.tick_cfg (s : State) : (s.tick).cfg = s.cfg := rfl
@[simp] theorem State.tick_inputs (s : State) : (s.tick).inputs = s.inputs := rfl
@[simp] theorem State.tick_iter (s : State) : (s.tick).iter = s.iter := rfl
@[simp] theorem State.tick_rand (s : State) : (s.tick).rand = s.rand := rfl
@[simp] theorem State.tick_out (s : State) : (s.tick).out = { s.out with render := some s.FB } := rfl

/-! ### `audioStep` -/

@[simp] theorem State.audioStep_V (s : State) : (s.audioStep).V = s.V := rfl
@[simp] theorem State.audioStep_pc (s : State) : (s.audioStep).pc = s.pc := rfl
@[simp] theorem State.audioStep_I (s : State) : (s.audioStep).I = s.I := rfl
@[simp] theorem State.audioStep_sp (s : State) : (s.audioStep).sp = s.sp := rfl
@[simp] theorem State.audioStep_stack (s : State) : (s.audioStep).stack = s.stack := rfl
@[simp] theorem State.audioStep_DT (s : State) : (s.audioStep).DT = s.DT := rfl
@[simp] theorem State.audioStep_ST (s : State) : (s.audioStep).ST = s.ST := rfl
@[simp] theorem State.audioStep_mem (s : State) : (s.audioStep).mem = s.mem := rfl
@[simp] theorem State.audioStep_FB (s : State) : (s.audioStep).FB = s.FB := rfl
@[simp] theorem State.audioStep_key (s : State) : (s.audioStep).key = s.key := rfl
@[simp] theorem State.audioStep_released (s : State) : (s.audioStep).released = s.released := rfl
@[simp] theorem State.audioStep_run (s : State) : (s.audioStep).run = s.run := rfl
@[simp] theorem State.audioStep_frameAcc (s : State) : (s.audioStep).frameAcc = s.frameAcc := rfl
@[simp] theorem State.audioStep_audioOn (s : State) : (s.audioStep).audioOn = (s.ST != 0) := rfl
@[simp] theorem State.audioStep_cfg (s : State) : (s.audioStep).cfg = s.cfg := rfl
@[simp] theorem State.audioStep_inputs (s : State) : (s.audioStep).inputs = s.inputs := rfl
@[simp] theorem State.audioStep_iter (s : State) : (s.audioStep).iter = s.iter := rfl
@[simp] theorem State.audioStep_rand (s : State) : (s.audioStep).rand = s.rand := rfl
@[simp] theorem State.audioStep_out (s : State) : (s.audioStep).out = { s.out with audio := some (s.ST != 0) } := rfl

/-! ### `withFault` -/

@[simp] theorem State.withFault_V (s : State) (f : FatalFault) : (s.withFault f).V = s.V := rfl
@[simp] theorem State.withFault_pc (s : State) (f : FatalFault) : (s.withFault f).pc = s.pc := rfl
@[simp] theorem State.withFault_I (s : State) (f : FatalFault) : (s.withFault f).I = s.I := rfl
@[simp] theorem State.withFault_sp (s : State) (f : FatalFault) : (s.withFault f).sp = s.sp := rfl
@[simp] theorem State.withFault_stack (s : State) (f : FatalFault) : (s.withFault f).stack = s.stack := rfl
@[simp] theorem State.withFault_DT (s : State) (f : FatalFault) : (s.withFault f).DT = s.DT := rfl
@[simp] theorem State.withFault_ST (s : State) (f : FatalFault) : (s.withFault f).ST = s.ST := rfl
@[simp] theorem State.withFault_mem (s : State) (f : FatalFault) : (s.withFault f).mem = s.mem := rfl
@[simp] theorem State.withFault_FB (s : State) (f : FatalFault) : (s.withFault f).FB = s.FB := rfl
@[simp] theorem State.withFault_key (s : State) (f : FatalFault) : (s.withFault f).key = s.key := rfl
@[simp] theorem State.withFault_released (s : State) (f : FatalFault) : (s.withFault f).released = s.released := rfl
@[simp] theorem State.withFault_run (s : State) (f : FatalFault) : (s.withFault f).run = .faulted f := rfl
@[simp] theorem State.withFault_frameAcc (s : State) (f : FatalFault) : (s.withFault f).frameAcc = s.frameAcc := rfl
@[simp] theorem State.withFault_audioOn (s : State) (f : FatalFault) : (s.withFault f).audioOn = s.audioOn := rfl
@[simp] theorem State.withFault_cfg (s : State) (f : FatalFault) : (s.withFault f).cfg = s.cfg := rfl
@[simp] theorem State.withFault_inputs (s : State) (f : FatalFault) : (s.withFault f).inputs = s.inputs := rfl
@[simp] theorem State.withFault_iter (s : State) (f : FatalFault) : (s.withFault f).iter = s.iter := rfl
@[simp] theorem State.withFault_rand (s : State) (f : FatalFault) : (s.withFault f).rand = s.rand := rfl
@[simp] theorem State.withFault_out (s : State) (f : FatalFault) : (s.withFault f).out = { s.out with diag := some f } := rfl

/-! ### `polled` -/

@[simp] theorem State.polled_V (s : State) : (s.polled).V = s.V := rfl
@[simp] theorem State.polled_pc (s : State) : (s.polled).pc = s.pc := rfl
@[simp] theorem State.polled_I (s : State) : (s.polled).I = s.I := rfl
@[simp] theorem State.polled_sp (s : State) : (s.polled).sp = s.sp := rfl
@[simp] theorem State.polled_stack (s : State) : (s.polled).stack = s.stack := rfl
@[simp] theorem State.polled_DT (s : State) : (s.polled).DT = s.DT := rfl
@[simp] theorem State.polled_ST (s : State) : (s.polled).ST = s.ST := rfl
@[simp] theorem State.polled_mem (s : State) : (s.polled).mem = s.mem := rfl
@[simp] theorem State.polled_FB (s : State) : (s.polled).FB = s.FB := rfl
@[simp] theorem State.polled_key (s : State) : (s.polled).key = s.nextInput.keys := rfl
@[simp] theorem State.polled_released (s : State) : (s.polled).released = s.nextInput.release.or s.released := by
  cases h : s.nextInput.release <;> simp [State.polled, State.poll, State.beginIteration, h]
@[simp] theorem State.polled_run (s : State) : (s.polled).run = s.run := rfl
@[simp] theorem State.polled_frameAcc (s : State) : (s.polled).frameAcc = s.frameAcc := rfl
@[simp] theorem State.polled_audioOn (s : State) : (s.polled).audioOn = s.audioOn := rfl
@[simp] theorem State.polled_cfg (s : State) : (s.polled).cfg = s.cfg := rfl
@[simp] theorem State.polled_inputs (s : State) : (s.polled).inputs = s.inputs.tail := rfl
@[simp] theorem State.polled_iter (s : State) : (s.polled).iter = s.iter + 1 := rfl
@[simp] theorem State.polled_rand (s : State) : (s.polled).rand = s.nextInput.rand := rfl
@[simp] theorem State.polled_out (s : State) : (s.polled).out = Output.none := rfl

/-! ### `skipIf` -/

@[simp] theorem State.skipIf_pc (s : State) (c : Bool) :
    (s.skipIf c).pc = if c then s.pc + 2 else s.pc := by cases c <;> rfl
@[simp] theorem State.skipIf_V (s : State) (c : Bool) : (s.skipIf c).V = s.V := by cases c <;> rfl
@[simp] theorem State.skipIf_I (s : State) (c : Bool) : (s.skipIf c).I = s.I := by cases c <;> rfl
@[simp] theorem State.skipIf_sp (s : State) (c : Bool) : (s.skipIf c).sp = s.sp := by cases c <;> rfl
@[simp] theorem State.skipIf_stack (s : State) (c : Bool) : (s.skipIf c).stack = s.stack := by cases c <;> rfl
@[simp] theorem State.skipIf_DT (s : State) (c : Bool) : (s.skipIf c).DT = s.DT := by cases c <;> rfl
@[simp] theorem State.skipIf_ST (s : State) (c : Bool) : (s.skipIf c).ST = s.ST := by cases c <;> rfl
@[simp] theorem State.skipIf_mem (s : State) (c : Bool) : (s.skipIf c).mem = s.mem := by cases c <;> rfl
@[simp] theorem State.skipIf_FB (s : State) (c : Bool) : (s.skipIf c).FB = s.FB := by cases c <;> rfl
@[simp] theorem State.skipIf_key (s : State) (c : Bool) : (s.skipIf c).key = s.key := by cases c <;> rfl
@[simp] theorem State.skipIf_released (s : State) (c : Bool) : (s.skipIf c).released = s.released := by cases c <;> rfl
@[simp] theorem State.skipIf_run (s : State) (c : Bool) : (s.skipIf c).run = s.run := by cases c <;> rfl
@[simp] theorem State.skipIf_frameAcc (s : State) (c : Bool) : (s.skipIf c).frameAcc = s.frameAcc := by cases c <;> rfl
@[simp] theorem State.skipIf_audioOn (s : State) (c : Bool) : (s.skipIf c).audioOn = s.audioOn := by cases c <;> rfl
@[simp] theorem State.skipIf_cfg (s : State) (c : Bool) : (s.skipIf c).cfg = s.cfg := by cases c <;> rfl
@[simp] theorem State.skipIf_inputs (s : State) (c : Bool) : (s.skipIf c).inputs = s.inputs := by cases c <;> rfl
@[simp] theorem State.skipIf_iter (s : State) (c : Bool) : (s.skipIf c).iter = s.iter := by cases c <;> rfl
@[simp] theorem State.skipIf_rand (s : State) (c : Bool) : (s.skipIf c).rand = s.rand := by cases c <;> rfl
@[simp] theorem State.skipIf_out (s : State) (c : Bool) : (s.skipIf c).out = s.out := by cases c <;> rfl

/-! ### `storeAll` and `storeData`: only memory -/

@[simp] theorem State.storeAll_V (s : State) (cs : List (Nat × Byte)) : (s.storeAll cs).V = s.V := by
  induction cs generalizing s with
  | nil => rfl
  | cons c cs ih => exact ih (s.storeByte c.1 c.2)
@[simp] theorem State.storeAll_pc (s : State) (cs : List (Nat × Byte)) : (s.storeAll cs).pc = s.pc := by
  induction cs generalizing s with
  | nil => rfl
  | cons c cs ih => exact ih (s.storeByte c.1 c.2)
@[simp] theorem State.storeAll_I (s : State) (cs : List (Nat × Byte)) : (s.storeAll cs).I = s.I := by
  induction cs generalizing s with
  | nil => rfl
  | cons c cs ih => exact ih (s.storeByte c.1 c.2)
@[simp] theorem State.storeAll_sp (s : State) (cs : List (Nat × Byte)) : (s.storeAll cs).sp = s.sp := by
  induction cs generalizing s with
  | nil => rfl
  | cons c cs ih => exact ih (s.storeByte c.1 c.2)
@[simp] theorem State.storeAll_stack (s : State) (cs : List (Nat × Byte)) : (s.storeAll cs).stack = s.stack := by
  induction cs generalizing s with
  | nil => rfl
  | cons c cs ih => exact ih (s.storeByte c.1 c.2)
@[simp] theorem State.storeAll_DT (s : State) (cs : List (Nat × Byte)) : (s.storeAll cs).DT = s.DT := by
  induction cs generalizing s with
  | nil => rfl
  | cons c cs ih => exact ih (s.storeByte c.1 c.2)
@[simp] theorem State.storeAll_ST (s : State) (cs : List (Nat × Byte)) : (s.storeAll cs).ST = s.ST := by
  induction cs generalizing s with
  | nil => rfl
  | cons c cs ih => exact ih (s.storeByte c.1 c.2)
@[simp] theorem State.storeAll_FB (s : State) (cs : List (Nat × Byte)) : (s.storeAll cs).FB = s.FB := by
  induction cs generalizing s with
  | nil => rfl
  | cons c cs ih => exact ih (s.storeByte c.1 c.2)
@[simp] theorem State.storeAll_key (s : State) (cs : List (Nat × Byte)) : (s.storeAll cs).key = s.key := by
  induction cs generalizing s with
  | nil => rfl
  | cons c cs ih => exact ih (s.storeByte c.1 c.2)
@[simp] theorem State.storeAll_released (s : State) (cs : List (Nat × Byte)) : (s.storeAll cs).released = s.released := by
  induction cs generalizing s with
  | nil => rfl
  | cons c cs ih => exact ih (s.storeByte c.1 c.2)
@[simp] theorem State.storeAll_run (s : State) (cs : List (Nat × Byte)) : (s.storeAll cs).run = s.run := by
  induction cs generalizing s with
  | nil => rfl
  | cons c cs ih => exact ih (s.storeByte c.1 c.2)
@[simp] theorem State.storeAll_frameAcc (s : State) (cs : List (Nat × Byte)) : (s.storeAll cs).frameAcc = s.frameAcc := by
  induction cs generalizing s with
  | nil => rfl
  | cons c cs ih => exact ih (s.storeByte c.1 c.2)
@[simp] theorem State.storeAll_audioOn (s : State) (cs : List (Nat × Byte)) : (s.storeAll cs).audioOn = s.audioOn := by
  induction cs generalizing s with
  | nil => rfl
  | cons c cs ih => exact ih (s.storeByte c.1 c.2)
@[simp] theorem State.storeAll_cfg (s : State) (cs : List (Nat × Byte)) : (s.storeAll cs).cfg = s.cfg := by
  induction cs generalizing s with
  | nil => rfl
  | cons c cs ih => exact ih (s.storeByte c.1 c.2)
@[simp] theorem State.storeAll_inputs (s : State) (cs : List (Nat × Byte)) : (s.storeAll cs).inputs = s.inputs := by
  induction cs generalizing s with
  | nil => rfl
  | cons c cs ih => exact ih (s.storeByte c.1 c.2)
@[simp] theorem State.storeAll_iter (s : State) (cs : List (Nat × Byte)) : (s.storeAll cs).iter = s.iter := by
  induction cs generalizing s with
  | nil => rfl
  | cons c cs ih => exact ih (s.storeByte c.1 c.2)
@[simp] theorem State.storeAll_rand (s : State) (cs : List (Nat × Byte)) : (s.storeAll cs).rand = s.rand := by
  induction cs generalizing s with
  | nil => rfl
  | cons c cs ih => exact ih (s.storeByte c.1 c.2)
@[simp] theorem State.storeAll_out (s : State) (cs : List (Nat × Byte)) : (s.storeAll cs).out = s.out := by
  induction cs generalizing s with
  | nil => rfl
  | cons c cs ih => exact ih (s.storeByte c.1 c.2)
@[simp] theorem State.storeData_V (s : State) (bs : List Byte) : (s.storeData bs).V = s.V :=
  State.storeAll_V s _
@[simp] theorem State.storeData_pc (s : State) (bs : List Byte) : (s.storeData bs).pc = s.pc :=
  State.storeAll_pc s _
@[simp] theorem State.storeData_I (s : State) (bs : List Byte) : (s.storeData bs).I = s.I :=
  State.storeAll_I s _
@[simp] theorem State.storeData_sp (s : State) (bs : List Byte) : (s.storeData bs).sp = s.sp :=
  State.storeAll_sp s _
@[simp] theorem State.storeData_stack (s : State) (bs : List Byte) : (s.storeData bs).stack = s.stack :=
  State.storeAll_stack s _
@[simp] theorem State.storeData_DT (s : State) (bs : List Byte) : (s.storeData bs).DT = s.DT :=
  State.storeAll_DT s _
@[simp] theorem State.storeData_ST (s : State) (bs : List Byte) : (s.storeData bs).ST = s.ST :=
  State.storeAll_ST s _
@[simp] theorem State.storeData_FB (s : State) (bs : List Byte) : (s.storeData bs).FB = s.FB :=
  State.storeAll_FB s _
@[simp] theorem State.storeData_key (s : State) (bs : List Byte) : (s.storeData bs).key = s.key :=
  State.storeAll_key s _
@[simp] theorem State.storeData_released (s : State) (bs : List Byte) : (s.storeData bs).released = s.released :=
  State.storeAll_released s _
@[simp] theorem State.storeData_run (s : State) (bs : List Byte) : (s.storeData bs).run = s.run :=
  State.storeAll_run s _
@[simp] theorem State.storeData_frameAcc (s : State) (bs : List Byte) : (s.storeData bs).frameAcc = s.frameAcc :=
  State.storeAll_frameAcc s _
@[simp] theorem State.storeData_audioOn (s : State) (bs : List Byte) : (s.storeData bs).audioOn = s.audioOn :=
  State.storeAll_audioOn s _
@[simp] theorem State.storeData_cfg (s : State) (bs : List Byte) : (s.storeData bs).cfg = s.cfg :=
  State.storeAll_cfg s _
@[simp] theorem State.storeData_inputs (s : State) (bs : List Byte) : (s.storeData bs).inputs = s.inputs :=
  State.storeAll_inputs s _
@[simp] theorem State.storeData_iter (s : State) (bs : List Byte) : (s.storeData bs).iter = s.iter :=
  State.storeAll_iter s _
@[simp] theorem State.storeData_rand (s : State) (bs : List Byte) : (s.storeData bs).rand = s.rand :=
  State.storeAll_rand s _
@[simp] theorem State.storeData_out (s : State) (bs : List Byte) : (s.storeData bs).out = s.out :=
  State.storeAll_out s _

end Sys2Proof.Machine
end

