-- ==== Sys2Proof/Laws/Memory.lean ====
section
/-! SUPPORT. The laws of memory: a read after a write, and that every memory operation keeps the canonical form. -/

namespace Sys2Proof.Machine

variable {d : Nat → Byte} {m : Memory} {a b : Nat} {v : Byte}

/-! ### Reading -/

theorem Memory.read_cons (c : Host.Cell) : Memory.read d (c :: m) a = if c.1 = a then c.2 else m.read d a := rfl

theorem Memory.read_of_not_listed (h : ∀ c ∈ m, c.1 ≠ a) : m.read d a = d a := by
  induction m with
  | nil => rfl
  | cons c m ih =>
    rw [Memory.read_cons, if_neg (h c (by simp)), ih (fun c' hc' => h c' (by simp [hc']))]

theorem Memory.erase_not_listed : ∀ c ∈ m.erase a, c.1 ≠ a := by
  simp [Memory.erase]

theorem Memory.read_erase_other (h : b ≠ a) : (m.erase a).read d b = m.read d b := by
  induction m with
  | nil => rfl
  | cons c m ih =>
    by_cases hc : c.1 = a
    · have hb : c.1 ≠ b := by omega
      have : Memory.erase (c :: m) a = Memory.erase m a := by simp [Memory.erase, hc]
      rw [this, ih, Memory.read_cons, if_neg hb]
    · have : Memory.erase (c :: m) a = c :: Memory.erase m a := by simp [Memory.erase, hc]
      rw [this, Memory.read_cons, Memory.read_cons, ih]

theorem Memory.read_insert_same (h : ∀ c ∈ m, c.1 ≠ a) : (m.insert a v).read d a = v := by
  induction m with
  | nil => simp [Memory.insert, Memory.read]
  | cons c m ih =>
    have hc : c.1 ≠ a := h c (by simp)
    unfold Memory.insert
    split
    · simp [Memory.read_cons]
    · rw [Memory.read_cons, if_neg hc, ih (fun c' hc' => h c' (by simp [hc']))]

theorem Memory.read_insert_other (h : b ≠ a) : (m.insert a v).read d b = m.read d b := by
  induction m with
  | nil => simp [Memory.insert, Memory.read, Ne.symm h]
  | cons c m ih =>
    unfold Memory.insert
    split
    · rw [Memory.read_cons, if_neg (Ne.symm h)]
    · rw [Memory.read_cons, Memory.read_cons, ih]

/-- A read after a write to the same address gives the byte written. -/
theorem Memory.read_write_same : (m.write d a v).read d a = v := by
  unfold Memory.write
  split
  · next h => rw [Memory.read_of_not_listed Memory.erase_not_listed, h]
  · exact Memory.read_insert_same Memory.erase_not_listed

/-- A write leaves every other address alone. -/
theorem Memory.read_write_other (h : b ≠ a) : (m.write d a v).read d b = m.read d b := by
  unfold Memory.write
  split
  · exact Memory.read_erase_other h
  · rw [Memory.read_insert_other h, Memory.read_erase_other h]

/-! ### The canonical form -/

theorem Memory.mem_insert {c : Host.Cell} : c ∈ m.insert a v ↔ c = (a, v) ∨ c ∈ m := by
  induction m with
  | nil => simp [Memory.insert]
  | cons c' m ih =>
    unfold Memory.insert
    split
    · simp
    · simp [ih]; tauto

theorem Memory.mem_erase {c : Host.Cell} : c ∈ m.erase a ↔ c ∈ m ∧ c.1 ≠ a := by
  simp [Memory.erase]

/-- A cell of memory after a write is the written one or an old one. -/
theorem Memory.mem_write {c : Host.Cell} (h : c ∈ m.write d a v) : c = (a, v) ∨ c ∈ m := by
  unfold Memory.write at h
  split at h
  · exact .inr (Memory.mem_erase.1 h).1
  · exact (Memory.mem_insert.1 h).imp_right fun h => (Memory.mem_erase.1 h).1

theorem Memory.sorted_insert (hm : m.Pairwise (fun c c' => c.1 < c'.1)) (h : ∀ c ∈ m, c.1 ≠ a) :
    (m.insert a v).Pairwise (fun c c' => c.1 < c'.1) := by
  induction m with
  | nil => simp [Memory.insert]
  | cons c m ih =>
    have hc := h c (by simp)
    rw [List.pairwise_cons] at hm
    unfold Memory.insert
    split
    · next hlt =>
      refine List.pairwise_cons.2 ⟨?_, List.pairwise_cons.2 hm⟩
      intro c' hc'
      rcases List.mem_cons.1 hc' with rfl | hc'
      · exact hlt
      · exact Nat.lt_trans hlt (hm.1 c' hc')
    · next hge =>
      refine List.pairwise_cons.2 ⟨?_, ih hm.2 (fun c' hc' => h c' (by simp [hc']))⟩
      intro c' hc'
      rcases Memory.mem_insert.1 hc' with rfl | hc'
      · show c.1 < a
        omega
      · exact hm.1 c' hc'

/-- A write inside the address space keeps the canonical form. -/
theorem Memory.wf_write (hm : m.wf d) (ha : a < Params.memSize) : (m.write d a v).wf d := by
  have hs : (m.erase a).Pairwise (fun c c' => c.1 < c'.1) := hm.1.sublist List.filter_sublist
  have he : ∀ c ∈ m.erase a, c.1 < Params.memSize ∧ c.2 ≠ d c.1 :=
    fun c hc => hm.2 c (Memory.mem_erase.1 hc).1
  unfold Memory.write
  split
  · exact ⟨hs, he⟩
  · next hv =>
    refine ⟨Memory.sorted_insert hs Memory.erase_not_listed, fun c hc => ?_⟩
    rcases Memory.mem_insert.1 hc with rfl | hc
    · exact ⟨ha, hv⟩
    · exact he c hc

theorem Memory.ofImage_cons {base : Nat} {b : Byte} {rest : List Byte} :
    Memory.ofImage d base (b :: rest) = if b = d base then Memory.ofImage d (base + 1) rest
      else (base, b) :: Memory.ofImage d (base + 1) rest := rfl

theorem Memory.ofImage_cell {base : Nat} {image : List Byte} :
    ∀ c ∈ Memory.ofImage d base image, base ≤ c.1 ∧ c.1 < base + image.length ∧ c.2 ≠ d c.1 := by
  induction image generalizing base with
  | nil => simp [Memory.ofImage]
  | cons b rest ih =>
    intro c hc
    rw [Memory.ofImage_cons] at hc
    rw [List.length_cons]
    split at hc
    · obtain ⟨h1, h2, h3⟩ := ih c hc
      exact ⟨by omega, by omega, h3⟩
    · next hb =>
      rcases List.mem_cons.1 hc with rfl | hc
      · exact ⟨Nat.le_refl _, by show base < _; omega, hb⟩
      · obtain ⟨h1, h2, h3⟩ := ih c hc
        exact ⟨by omega, by omega, h3⟩

/-- The memory of an image that ends inside the address space is in canonical form. -/
theorem Memory.wf_ofImage {base : Nat} {image : List Byte} (h : base + image.length ≤ Params.memSize) :
    (Memory.ofImage d base image).wf d := by
  constructor
  · clear h
    induction image generalizing base with
    | nil => simp [Memory.ofImage]
    | cons b rest ih =>
      rw [Memory.ofImage_cons]
      split
      · exact ih
      · refine List.pairwise_cons.2 ⟨fun c hc => ?_, ih⟩
        exact (Memory.ofImage_cell c hc).1
  · intro c hc
    have := Memory.ofImage_cell c hc
    exact ⟨by omega, this.2.2⟩

/-- Every byte of a loaded image reads as it stands in the image, and every other byte as at reset. -/
theorem Memory.read_ofImage {base : Nat} {image : List Byte} :
    (Memory.ofImage d base image).read d a = if base ≤ a then image[a - base]?.getD (d a) else d a := by
  induction image generalizing base with
  | nil => simp [Memory.ofImage, Memory.read]
  | cons b rest ih =>
    have key : (if base = a then b else (Memory.ofImage d (base + 1) rest).read d a)
        = if base ≤ a then (b :: rest)[a - base]?.getD (d a) else d a := by
      rw [ih]
      rcases Nat.lt_trichotomy base a with h | h | h
      · rw [if_neg (by omega), if_pos (by omega), if_pos (by omega),
          show a - base = (a - (base + 1)) + 1 by omega, List.getElem?_cons_succ]
      · subst h; simp
      · rw [if_neg (by omega), if_neg (by omega), if_neg (by omega)]
    rw [← key, Memory.ofImage_cons]
    split
    · next hb =>
      split
      · next h => subst h; rw [Memory.read_of_not_listed, hb]; intro c hc; have := Memory.ofImage_cell c hc; omega
      · rfl
    · rfl

/-! ### The same laws on the state -/

@[simp] theorem State.byteAt_storeByte_same (s : State) (a : Nat) (v : Byte) : (s.storeByte a v).byteAt a = v :=
  Memory.read_write_same

theorem State.byteAt_storeByte_other (s : State) {a b : Nat} (v : Byte) (h : b ≠ a) :
    (s.storeByte a v).byteAt b = s.byteAt b := Memory.read_write_other h

/-- A store of several bytes leaves every other address alone. -/
theorem State.byteAt_storeAll_other (s : State) {cs : List (Nat × Byte)} (h : ∀ c ∈ cs, c.1 ≠ a) :
    (s.storeAll cs).byteAt a = s.byteAt a := by
  induction cs generalizing s with
  | nil => rfl
  | cons c cs ih =>
    have hc : a ≠ c.1 := Ne.symm (h c (by simp))
    exact (ih (s.storeByte c.1 c.2) fun c' hc' => h c' (by simp [hc'])).trans
      (s.byteAt_storeByte_other c.2 hc)

/-- A store of several bytes at distinct addresses puts each byte at its address. -/
theorem State.byteAt_storeAll_mem (s : State) {cs : List (Nat × Byte)}
    (hd : cs.Pairwise (fun c c' => c.1 ≠ c'.1)) (h : (a, v) ∈ cs) : (s.storeAll cs).byteAt a = v := by
  induction cs generalizing s with
  | nil => simp at h
  | cons c cs ih =>
    rw [List.pairwise_cons] at hd
    show ((s.storeByte c.1 c.2).storeAll cs).byteAt a = v
    rcases List.mem_cons.1 h with rfl | h
    · rw [State.byteAt_storeAll_other _ (fun c' hc' => Ne.symm (hd.1 c' hc'))]
      exact s.byteAt_storeByte_same a v
    · exact ih _ hd.2 h

/-- Stores inside the address space keep the canonical form. -/
theorem State.storeAll_wf (s : State) {cs : List (Nat × Byte)} (hs : s.mem.wf s.cfg.resetByte)
    (h : ∀ c ∈ cs, c.1 < Params.memSize) : (s.storeAll cs).mem.wf s.cfg.resetByte := by
  induction cs generalizing s with
  | nil => exact hs
  | cons c cs ih =>
    exact ih (s.storeByte c.1 c.2) (Memory.wf_write hs (h c (by simp))) fun c' hc' => h c' (by simp [hc'])

/-- A cell after several stores is a stored one or an old one. -/
theorem State.mem_storeAll (s : State) {cs : List (Nat × Byte)} {c : Host.Cell}
    (h : c ∈ (s.storeAll cs).mem) : c ∈ cs ∨ c ∈ s.mem := by
  induction cs generalizing s with
  | nil => exact .inr h
  | cons c' cs ih =>
    rcases ih (s.storeByte c'.1 c'.2) h with h | h
    · exact .inl (by simp [h])
    · rcases Memory.mem_write h with h | h
      · exact .inl (by simp [h])
      · exact .inr h

/-- Initialisation makes a memory in canonical form that holds the image (R240, R241). -/
theorem State.init_mem {c : Config} {image : List Byte} {s : State} (h : State.init c image = some s) :
    s.mem.wf s.cfg.resetByte ∧
    ∀ a, s.byteAt a = if Params.progBase ≤ a then image[a - Params.progBase]?.getD (c.resetByte a) else c.resetByte a := by
  unfold State.init at h
  split at h
  · next hfit =>
    have hlen : Params.progBase + image.length ≤ Params.memSize := by
      rw [imageFits, decide_eq_true_eq] at hfit
      simp only [Params.maxImage, Params.progLimit, Params.progBase] at hfit
      simp only [Params.progBase, Params.memSize]
      omega
    cases h
    exact ⟨Memory.wf_ofImage hlen, fun a => Memory.read_ofImage⟩
  · cases h

end Sys2Proof.Machine
end

