-- ==== Sys2Proof/Laws/Ops.lean ====
section
/-! SUPPORT. For each shared operation, one lemma that says what it can do. Proofs cite these and do not unfold the
operations. -/

namespace Sys2Proof.Machine

/-! ### Registers -/

theorem State.getV_eq (s : State) (x : RegIx) : s.getV x = s.V[x.val] := rfl

@[simp] theorem State.getV_setV_same (s : State) (x : RegIx) (b : Byte) : (s.setV x b).getV x = b := by
  simp [State.getV_eq]

theorem State.getV_setV_other (s : State) {x r : RegIx} (b : Byte) (h : r ≠ x) : (s.setV x b).getV r = s.getV r := by
  have : x.val ≠ r.val := fun e => h (Fin.ext e.symm)
  simp [State.getV_eq, this]

theorem State.getV_setV (s : State) (x r : RegIx) (b : Byte) :
    (s.setV x b).getV r = if r = x then b else s.getV r := by
  split
  · next h => rw [h, State.getV_setV_same]
  · next h => exact s.getV_setV_other b h

@[simp] theorem State.getV_setFlag_vF (s : State) (c : Bool) : (s.setFlag c).getV vF = flagByte c :=
  s.getV_setV_same vF _

theorem State.getV_setFlag_other (s : State) {r : RegIx} (c : Bool) (h : r ≠ vF) :
    (s.setFlag c).getV r = s.getV r := s.getV_setV_other _ h

/-- The flag is what VF holds at the end (R120). -/
@[simp] theorem State.getV_setResultAndFlag_vF (s : State) (x : RegIx) (b : Byte) (c : Bool) :
    (s.setResultAndFlag x b c).getV vF = flagByte c := State.getV_setFlag_vF _ c

theorem State.getV_setResultAndFlag_result (s : State) {x : RegIx} (b : Byte) (c : Bool) (h : x ≠ vF) :
    (s.setResultAndFlag x b c).getV x = b :=
  (State.getV_setFlag_other _ c h).trans (s.getV_setV_same x b)

theorem State.getV_setResultAndFlag_other (s : State) {x r : RegIx} (b : Byte) (c : Bool) (h : r ≠ x) (h' : r ≠ vF) :
    (s.setResultAndFlag x b c).getV r = s.getV r :=
  (State.getV_setFlag_other _ c h').trans (s.getV_setV_other b h)

theorem State.getV_loadRegs (s : State) (x r : RegIx) :
    (s.loadRegs x).getV r = if r ≤ x then s.byteAt (s.ea r.val) else s.getV r := by
  simp [State.getV_eq, State.loadRegs]

theorem State.regsUpTo_length (s : State) (x : RegIx) : (s.regsUpTo x).length = x.val + 1 := by
  simp [State.regsUpTo]

theorem State.regsUpTo_getElem (s : State) (x : RegIx) {k : Nat} (h : k < (s.regsUpTo x).length) :
    (s.regsUpTo x)[k] = s.getV ⟨k, by have := s.regsUpTo_length x; omega⟩ := by
  simp [State.regsUpTo, State.getV_eq]

/-- A change of parts other than V leaves every register as it was. -/
theorem State.getV_congr {s t : State} (h : t.V = s.V) (r : RegIx) : t.getV r = s.getV r := by
  rw [State.getV_eq, State.getV_eq, h]

/-- A change of parts other than memory and the parameters leaves every byte as it was. -/
theorem State.byteAt_congr {s t : State} (h : t.mem = s.mem) (hc : t.cfg = s.cfg) (a : Nat) :
    t.byteAt a = s.byteAt a := by
  rw [State.byteAt, State.byteAt, h, hc]

/-! ### Data addresses -/

theorem toNat_and_0FFF (w : Word) : (w &&& 0x0FFF).toNat = w.toNat % 4096 :=
  (BitVec.toNat_and w 0x0FFF).trans (Nat.and_two_pow_sub_one_eq_mod w.toNat 12)

theorem State.ea_lt (s : State) (k : Nat) : s.ea k < 4096 := by
  rw [State.ea, toNat_and_0FFF]
  omega

/-- The addresses of one access are distinct. -/
theorem State.ea_injective (s : State) {j k : Nat} (hj : j < 4096) (hk : k < 4096) (h : s.ea j = s.ea k) : j = k := by
  simp only [State.ea, toNat_and_0FFF, BitVec.toNat_add, BitVec.toNat_ofNat] at h
  omega

theorem State.mem_eas {s : State} {n a : Nat} : a ∈ s.eas n ↔ ∃ k, k < n ∧ s.ea k = a := by
  simp [State.eas]

@[simp] theorem State.eas_length (s : State) (n : Nat) : (s.eas n).length = n := by simp [State.eas]

theorem State.eas_getElem (s : State) {n k : Nat} (h : k < (s.eas n).length) : (s.eas n)[k] = s.ea k := by
  simp [State.eas]

@[simp] theorem State.dataBytes_length (s : State) (n : Nat) : (s.dataBytes n).length = n := by
  simp [State.dataBytes]

theorem State.dataBytes_getElem (s : State) {n k : Nat} (h : k < (s.dataBytes n).length) :
    (s.dataBytes n)[k] = s.byteAt (s.ea k) := by
  simp [State.dataBytes, State.eas]

/-- A store of data leaves every byte outside its addresses alone. -/
theorem State.byteAt_storeData_other (s : State) {bs : List Byte} {a : Nat} (h : a ∉ s.eas bs.length) :
    (s.storeData bs).byteAt a = s.byteAt a :=
  State.byteAt_storeAll_other s fun _ hc e => h (e ▸ (List.of_mem_zip hc).1)

/-- A store of data puts byte `k` at `EA(k)`. -/
theorem State.byteAt_storeData_mem (s : State) {bs : List Byte} (hn : bs.length ≤ 4096) {k : Nat} (h : k < bs.length) :
    (s.storeData bs).byteAt (s.ea k) = bs[k] := by
  apply State.byteAt_storeAll_mem
  · rw [List.pairwise_iff_getElem]
    intro i j hi hj hij e
    simp only [List.getElem_zip, State.eas_getElem, List.length_zip, State.eas_length, Nat.min_self] at e hi hj
    have := s.ea_injective (by omega) (by omega) e
    omega
  · rw [List.mem_iff_getElem]
    exact ⟨k, by simpa using h, by simp [State.eas_getElem]⟩

/-! ### Fatal faults -/

theorem State.raise_eq (s : State) (f : FatalFault) : s.raise f = .next (s.withFault f) := rfl

/-- Either no check failed, or the fault is taken and nothing else happens. -/
theorem State.unlessFault_cases {s t u : State} {check : Option FatalFault}
    (h : s.unlessFault check t = .next u) :
    (check = none ∧ u = t) ∨ ∃ f, check = some f ∧ u = s.withFault f := by
  cases check with
  | none => cases h; exact .inl ⟨rfl, rfl⟩
  | some f => cases h; exact .inr ⟨f, rfl, rfl⟩

theorem State.readFault_none {s : State} {a : Nat} : s.readFault a = none ↔ a < Params.memSize := by
  unfold State.readFault
  split
  · simp; omega
  · simp; omega

theorem State.writeFault_none {s : State} {a : Nat} :
    s.writeFault a = none ↔ Params.fontEnd ≤ a ∧ a < Params.memSize := by
  unfold State.writeFault
  split
  · simp; omega
  · split
    · simp; omega
    · simp; omega

theorem State.readFaults_none {s : State} {n : Nat} :
    s.readFaults n = none ↔ ∀ k, k < n → s.ea k < Params.memSize := by
  simp [State.readFaults, List.findSome?_eq_none_iff, State.mem_eas, State.readFault_none]

theorem State.writeFaults_none {s : State} {n : Nat} :
    s.writeFaults n = none ↔ ∀ k, k < n → Params.fontEnd ≤ s.ea k ∧ s.ea k < Params.memSize := by
  simp [State.writeFaults, List.findSome?_eq_none_iff, State.mem_eas, State.writeFault_none]

/-- The first failing check decides: one at `EA(k)` with none before it. -/
theorem State.findSome_eas {s : State} {n k : Nat} {check : Nat → Option FatalFault} {f : FatalFault} (hk : k < n)
    (hf : check (s.ea k) = some f) (hb : ∀ j, j < k → check (s.ea j) = none) :
    (s.eas n).findSome? check = some f := by
  have : List.range n = List.range k ++ (k :: (List.range' (k + 1) (n - k - 1))) := by
    have h := List.range'_append_1 (s := 0) (m := k) (n := n - k)
    rw [Nat.zero_add, show k + (n - k) = n by omega] at h
    rw [List.range_eq_range', List.range_eq_range', ← List.range'_succ, show n - k - 1 + 1 = n - k by omega, h]
  rw [State.eas, this, List.map_append, List.findSome?_append, List.findSome?_eq_none_iff.2, List.map_cons,
    List.findSome?_cons, hf]
  · rfl
  · simpa using hb

/-! ### Stack -/

/-- A call pushes `pc` and jumps, or overflows. -/
theorem State.callTo_cases {s t : State} {w : Word} (h : s.callTo w = .next t) :
    (∃ hs : s.sp.val < 8,
      t = { s with sp := ⟨s.sp.val + 1, by omega⟩, stack := s.stack.set s.sp.val s.pc, pc := w }) ∨
    (s.sp.val = 8 ∧ t = s.withFault (.stackOverflow s.ia)) := by
  unfold State.callTo at h
  split at h
  · next hs => cases h; exact .inl ⟨hs, rfl⟩
  · cases h; exact .inr ⟨by omega, rfl⟩

/-- A return pops the newest address, or underflows. -/
theorem State.popPc_cases {s t : State} (h : s.popPc = .next t) :
    (∃ _ : 0 < s.sp.val,
      t = { s with pc := s.stack[s.sp.val - 1], sp := ⟨s.sp.val - 1, by omega⟩ }) ∨
    (s.sp.val = 0 ∧ t = s.withFault (.stackUnderflow s.ia)) := by
  unfold State.popPc at h
  split at h
  · next hs => cases h; exact .inl ⟨hs, rfl⟩
  · cases h; exact .inr ⟨by omega, rfl⟩

/-! ### Keys -/

theorem keyOf_of_lt {b : Byte} (h : b.toNat < 16) : keyOf b = some ⟨b.toNat, h⟩ := dif_pos h

theorem keyOf_of_ge {b : Byte} (h : 16 ≤ b.toNat) : keyOf b = none := dif_neg (by omega)

/-- A key skip skips or not, or names no key. -/
theorem State.skipIfKey_cases {s t : State} {b : Byte} {want : Bool} (h : s.skipIfKey b want = .next t) :
    (∃ hb : b.toNat < 16, t = s.skipIf (s.key[b.toNat] == want)) ∨
    (16 ≤ b.toNat ∧ t = s.withFault (.invalidKey s.ia b)) := by
  unfold State.skipIfKey at h
  by_cases hb : b.toNat < 16
  · rw [keyOf_of_lt hb] at h
    cases h
    exact .inl ⟨hb, rfl⟩
  · rw [keyOf_of_ge (by omega)] at h
    cases h
    exact .inr ⟨by omega, rfl⟩

/-! ### Fetch and decode -/

theorem State.fetchAllowed_iff {s : State} :
    s.fetchAllowed = true ↔ Params.fetchLo ≤ s.pc.toNat ∧ s.pc.toNat + 2 < Params.fetchHi := by
  simp only [State.fetchAllowed, Bool.and_eq_true, decide_eq_true_eq]
  omega

theorem decode_bytes (hi lo : Byte) (rest : List Byte) :
    decode (hi :: lo :: rest) =
      match decodeWord (wordOfBytes hi lo) with
      | .ok i => .ok (i, rest)
      | .error r => .error r := rfl

theorem State.fetched_of_outside {s : State} (h : s.fetchAllowed = false) :
    s.fetched = .fault (.inaccessibleMemoryAddress s.pc) := by simp [State.fetched, h]

theorem State.fetched_of_instr {s : State} {i : Instr} (h : s.fetchAllowed = true)
    (hd : decodeWord s.fetchWord = .ok i) : s.fetched = .instr i := by
  have : decode s.fetchBytes = .ok (i, []) := by
    rw [State.fetchBytes, decode_bytes, ← State.fetchWord, hd]
  simp [State.fetched, h, this]

theorem State.fetched_of_unrecognized {s : State} {r : Reject} (h : s.fetchAllowed = true)
    (hd : decodeWord s.fetchWord = .error r) : s.fetched = .unrecognized s.fetchWord := by
  have : decode s.fetchBytes = .error r := by
    rw [State.fetchBytes, decode_bytes, ← State.fetchWord, hd]
  simp [State.fetched, h, this]

/-! ### Initialisation -/

/-- An initialisation that is not rejected fits its image and makes the reset state with that memory. -/
theorem State.init_cases {c : Config} {image : List Byte} {s : State} (h : State.init c image = some s) :
    Params.progBase + image.length ≤ Params.progLimit ∧
      s = { State.reset with cfg := c, mem := Memory.ofImage c.resetByte Params.progBase image } := by
  unfold State.init at h
  split at h
  · next hf =>
    have : image.length ≤ Params.maxImage := of_decide_eq_true hf
    cases h
    exact ⟨by simp only [Params.maxImage, Params.progLimit, Params.progBase] at *; omega, rfl⟩
  · cases h

/-! ### Wait step, frame tick, end of an iteration -/

/-- The wait step takes a latched release, or changes nothing. -/
theorem State.waitStep_cases (s : State) (x : RegIx) :
    (∃ k, s.released = some k ∧
      s.waitStep x = ((s.setV x (BitVec.ofNat 8 k.val)).setReleased none).setRun .running) ∨
    (s.released = none ∧ s.waitStep x = s) := by
  unfold State.waitStep
  cases h : s.released with
  | none => exact .inr ⟨rfl, rfl⟩
  | some k => exact .inl ⟨k, rfl, rfl⟩

/-- Step 3 ticks, or counts, or does nothing. -/
theorem State.frameStep_cases (s : State) (due : Bool) :
    s.frameStep due = s.tick ∨ (s.cfg.schedule = .hostClock ∧ s.frameStep due = s) ∨
    ∃ n, s.cfg.schedule = .virtualClock n ∧ s.frameAcc + 1 < n ∧
      s.frameStep due = { s with frameAcc := s.frameAcc + 1 } := by
  unfold State.frameStep
  cases hs : s.cfg.schedule with
  | hostClock =>
    cases due
    · exact .inr (.inl ⟨rfl, rfl⟩)
    · exact .inl rfl
  | virtualClock n =>
    by_cases hn : n ≤ s.frameAcc + 1
    · exact .inl (by simp [hn])
    · exact .inr (.inr ⟨n, rfl, by omega, by simp [hn]⟩)

theorem State.finishIteration_of_faulted {s : State} (due : Bool) (h : s.Faulted) : s.finishIteration due = s := by
  obtain ⟨f, h⟩ := h
  simp [State.finishIteration, h]

theorem State.finishIteration_of_not_faulted {s : State} (due : Bool) (h : ¬ s.Faulted) :
    s.finishIteration due = (s.frameStep due).audioStep := by
  unfold State.finishIteration
  split
  · next f hf => exact absurd ⟨f, hf⟩ h
  · rfl

end Sys2Proof.Machine
end

