-- ==== Sys2Proof/Laws/Draw.lean ====
section
/-! SUPPORT. What a draw does to the framebuffer, one lemma for the pixels and one for the collision flag. -/

namespace Sys2Proof.Machine

theorem drawBit_pixel (rule : CollisionRule) (b : Byte) (x0 : Nat) (st : FbRow × Bool) (c p : Nat) (hp : p < 64) :
    (drawBit rule b x0 st c).1[p] = if x0 + c = p then st.1[p] ^^ spriteBit b c else st.1[p] := by
  unfold drawBit
  split
  · by_cases e : x0 + c = p
    · subst e
      simp
    · simp [e]
  · rw [if_neg (by omega)]

theorem drawBit_hit (rule : CollisionRule) (b : Byte) (x0 : Nat) (st : FbRow × Bool) (c : Nat) :
    (drawBit rule b x0 st c).2 = true ↔
      st.2 = true ∨ ∃ h : x0 + c < 64, collides rule st.1[x0 + c] (st.1[x0 + c] ^^ spriteBit b c) = true := by
  unfold drawBit
  split
  · next h => simp [h]
  · next h => simp [h]

theorem drawBits_succ (rule : CollisionRule) (b : Byte) (x0 : Nat) (st : FbRow × Bool) (n : Nat) :
    (List.range (n + 1)).foldl (drawBit rule b x0) st =
      drawBit rule b x0 ((List.range n).foldl (drawBit rule b x0) st) n := by
  simp [List.range_succ]

/-- The first `n` columns of one sprite row: their pixels are XORed with the sprite bits. -/
theorem drawBits_pixel (rule : CollisionRule) (b : Byte) (x0 : Nat) (row : FbRow) (hit : Bool) (n p : Nat)
    (hp : p < 64) :
    ((List.range n).foldl (drawBit rule b x0) (row, hit)).1[p] =
      if x0 ≤ p ∧ p < x0 + n then row[p] ^^ spriteBit b (p - x0) else row[p] := by
  induction n with
  | zero => simp [show ¬ (x0 ≤ p ∧ p < x0) by omega]
  | succ n ih =>
    simp only [drawBits_succ, drawBit_pixel _ _ _ _ _ p hp, ih]
    by_cases e : x0 + n = p
    · subst e
      simp
    · simp [e, show (x0 ≤ p ∧ p < x0 + (n + 1)) ↔ (x0 ≤ p ∧ p < x0 + n) by omega]

/-- The first `n` columns of one sprite row: the flag says that some visible one of them collides. -/
theorem drawBits_hit (rule : CollisionRule) (b : Byte) (x0 : Nat) (row : FbRow) (hit : Bool) (n : Nat) :
    ((List.range n).foldl (drawBit rule b x0) (row, hit)).2 = true ↔
      hit = true ∨ ∃ c, c < n ∧ ∃ h : x0 + c < 64,
        collides rule row[x0 + c] (row[x0 + c] ^^ spriteBit b c) = true := by
  induction n with
  | zero => simp
  | succ n ih =>
    have hpix (h : x0 + n < 64) : ((List.range n).foldl (drawBit rule b x0) (row, hit)).1[x0 + n] = row[x0 + n] := by
      rw [drawBits_pixel rule b x0 row hit n _ h, if_neg (by omega)]
    rw [drawBits_succ, drawBit_hit, ih]
    constructor
    · rintro ((h1 | ⟨c, hc, h2⟩) | ⟨h, h1⟩)
      · exact .inl h1
      · exact .inr ⟨c, by omega, h2⟩
      · exact .inr ⟨n, by omega, h, by simpa [hpix h] using h1⟩
    · rintro (h1 | ⟨c, hc, h2, h3⟩)
      · exact .inl (.inl h1)
      · by_cases e : c = n
        · subst e
          exact .inr ⟨h2, by simpa [hpix h2] using h3⟩
        · exact .inl (.inr ⟨c, by omega, h2, h3⟩)

theorem drawRow_eq (rule : CollisionRule) (b : Byte) (x0 : Nat) (row : FbRow) (hit : Bool) :
    drawRow rule b x0 row hit = (List.range 8).foldl (drawBit rule b x0) (row, hit) := rfl

theorem Framebuffer.pixel_of_lt (f : Framebuffer) {px py : Nat} (hx : px < 64) (hy : py < 32) :
    f.pixel px py = f[py][px] := by simp [Framebuffer.pixel, hx, hy]

theorem Framebuffer.pixel_set (f : Framebuffer) (row : FbRow) {q px py : Nat} (hq : q < 32) (hx : px < 64)
    (hy : py < 32) :
    Framebuffer.pixel (f.set q row) px py = if q = py then row[px] else f.pixel px py := by
  rw [Framebuffer.pixel_of_lt _ hx hy, Framebuffer.pixel_of_lt _ hx hy, Vector.getElem_set]
  split
  · rfl
  · rfl

/-- Two framebuffers with the same 2048 pixels are equal. -/
theorem Framebuffer.ext_pixel {f g : Framebuffer} (h : ∀ px py, px < 64 → py < 32 → f.pixel px py = g.pixel px py) :
    f = g := by
  apply Vector.ext
  intro py hy
  apply Vector.ext
  intro px hx
  rw [← f.pixel_of_lt hx hy, ← g.pixel_of_lt hx hy]
  exact h px py hx hy

/-- A draw XORs the pixels of its clipped box and leaves the others. -/
theorem drawRows_pixel (rule : CollisionRule) (x0 py : Nat) (f : Framebuffer) (hit : Bool) (bytes : List Byte)
    {px qy : Nat} (hx : px < 64) (hy : qy < 32) :
    (drawRows rule x0 py f hit bytes).1.pixel px qy =
      if h : (x0 ≤ px ∧ px < x0 + 8) ∧ py ≤ qy ∧ qy - py < bytes.length then
        f.pixel px qy ^^ spriteBit (bytes[qy - py]'h.2.2) (px - x0)
      else f.pixel px qy := by
  induction bytes generalizing py f hit with
  | nil => simp [drawRows]
  | cons b rest ih =>
    unfold drawRows
    split
    · next hpy =>
      simp only []
      rw [ih]
      simp only [Framebuffer.pixel_set f _ hpy hx hy, drawRow_eq, drawBits_pixel rule b x0 _ hit 8 px hx]
      by_cases e : py = qy
      · subst e
        simp [show ¬ (py + 1 ≤ py) by omega, Framebuffer.pixel_of_lt f hx hpy]
      · by_cases hb : x0 ≤ px ∧ px < x0 + 8
        · by_cases hl : py + 1 ≤ qy ∧ qy - (py + 1) < rest.length
          · have hk : qy - py = (qy - (py + 1)) + 1 := by omega
            rw [dif_pos ⟨hb, hl⟩, dif_pos ⟨hb, by omega, by simp; omega⟩, if_neg e]
            simp [hk]
          · rw [dif_neg (by omega), dif_neg (by simp; omega), if_neg e]
        · rw [dif_neg (by omega), dif_neg (by omega), if_neg e]
    · next hpy => rw [dif_neg (by omega)]

/-- The collision flag of a draw: some pixel of the clipped box collides. -/
theorem drawRows_hit (rule : CollisionRule) (x0 py : Nat) (f : Framebuffer) (hit : Bool) (bytes : List Byte) :
    (drawRows rule x0 py f hit bytes).2 = true ↔
      hit = true ∨ ∃ (r c : Nat) (h : r < bytes.length), c < 8 ∧ x0 + c < 64 ∧ py + r < 32 ∧
        collides rule (f.pixel (x0 + c) (py + r)) (f.pixel (x0 + c) (py + r) ^^ spriteBit bytes[r] c) = true := by
  induction bytes generalizing py f hit with
  | nil => simp [drawRows]
  | cons b rest ih =>
    unfold drawRows
    split
    · next hpy =>
      simp only []
      rw [ih, drawRow_eq, drawBits_hit]
      constructor
      · rintro ((h | ⟨c, hc, h64, hh⟩) | ⟨r, c, hr, hc, h64, h32, hh⟩)
        · exact .inl h
        · refine .inr ⟨0, c, by simp, hc, h64, by omega, ?_⟩
          simpa [Framebuffer.pixel_of_lt f h64 hpy] using hh
        · refine .inr ⟨r + 1, c, by simpa using hr, hc, h64, by omega, ?_⟩
          rw [Framebuffer.pixel_set f _ hpy h64 h32, if_neg (by omega)] at hh
          simpa [show py + (r + 1) = py + 1 + r by omega] using hh
      · rintro (h | ⟨r, c, hr, hc, h64, h32, hh⟩)
        · exact .inl (.inl h)
        · cases r with
          | zero =>
            refine .inl (.inr ⟨c, hc, h64, ?_⟩)
            simpa [Framebuffer.pixel_of_lt f h64 hpy] using hh
          | succ r =>
            refine .inr ⟨r, c, by simpa using hr, hc, h64, by omega, ?_⟩
            rw [Framebuffer.pixel_set f _ hpy h64 (by omega), if_neg (by omega)]
            simpa [show py + (r + 1) = py + 1 + r by omega] using hh
    · next hpy =>
      constructor
      · exact .inl
      · rintro (h | ⟨r, c, hr, hc, h64, h32, hh⟩)
        · exact h
        · omega

end Sys2Proof.Machine
end

