-- ==== Sys2Proof/Laws/PerInstr.lean ====
section
/-! SUPPORT. The statements that are made per instruction. `OpcodeRow`: the word that the encoder makes for an
instruction lies in that instruction's row of spec/opcode_table.json. -/

namespace Sys2Proof.Laws

/-- The row of spec/opcode_table.json that an instruction stands for: its match and its mask. -/
def row : Instr → Word × Word
  | .cls => (0x00E0, 0xFFFF)
  | .ret => (0x00EE, 0xFFFF)
  | .jp _ => (0x1000, 0xF000)
  | .call _ => (0x2000, 0xF000)
  | .seVxKk _ _ => (0x3000, 0xF000)
  | .sneVxKk _ _ => (0x4000, 0xF000)
  | .seVxVy _ _ => (0x5000, 0xF00F)
  | .ldVxKk _ _ => (0x6000, 0xF000)
  | .addVxKk _ _ => (0x7000, 0xF000)
  | .ldVxVy _ _ => (0x8000, 0xF00F)
  | .orVxVy _ _ => (0x8001, 0xF00F)
  | .andVxVy _ _ => (0x8002, 0xF00F)
  | .xorVxVy _ _ => (0x8003, 0xF00F)
  | .addVxVy _ _ => (0x8004, 0xF00F)
  | .subVxVy _ _ => (0x8005, 0xF00F)
  | .shrVxVy _ _ => (0x8006, 0xF00F)
  | .subnVxVy _ _ => (0x8007, 0xF00F)
  | .shlVxVy _ _ => (0x800E, 0xF00F)
  | .sneVxVy _ _ => (0x9000, 0xF00F)
  | .ldINnn _ => (0xA000, 0xF000)
  | .jpV0Nnn _ => (0xB000, 0xF000)
  | .rndVxKk _ _ => (0xC000, 0xF000)
  | .drwVxVyN _ _ _ => (0xD000, 0xF000)
  | .skpVx _ => (0xE09E, 0xF0FF)
  | .sknpVx _ => (0xE0A1, 0xF0FF)
  | .ldVxDT _ => (0xF007, 0xF0FF)
  | .ldVxK _ => (0xF00A, 0xF0FF)
  | .ldDTVx _ => (0xF015, 0xF0FF)
  | .ldSTVx _ => (0xF018, 0xF0FF)
  | .addIVx _ => (0xF01E, 0xF0FF)
  | .ldFVx _ => (0xF029, 0xF0FF)
  | .ldBVx _ => (0xF033, 0xF0FF)
  | .ldMemVx _ => (0xF055, 0xF0FF)
  | .ldVxMem _ => (0xF065, 0xF0FF)

/-- The encoder's word agrees with the row's match under the row's mask. -/
def OpcodeRow.Statement (i : Instr) : Prop := encodeWord i &&& (row i).2 = (row i).1

/-! ### A format under the table's masks -/

theorem and_allOnes4 (f : BitVec 4) : f &&& 0xF#4 = f := by
  rw [show (0xF#4) = BitVec.allOnes 4 from rfl, BitVec.and_allOnes]

theorem and_allOnes8 (b : Byte) : b &&& 0xFF#8 = b := by
  rw [show (0xFF#8) = BitVec.allOnes 8 from rfl, BitVec.and_allOnes]

theorem wordA_mask (f : BitVec 4) (nnn : BitVec 12) : wordA f nnn &&& 0xF000 = wordA f 0 := by
  show (f ++ nnn) &&& (0xF#4 ++ 0#12) = f ++ 0#12
  rw [BitVec.and_append, and_allOnes4, BitVec.and_zero]

theorem wordXK_mask (f : BitVec 4) (x : RegIx) (kk : Byte) : wordXK f x kk &&& 0xF000 = wordXK f 0 0 := by
  show (f ++ BitVec.ofFin (w := 4) x ++ kk) &&& (0xF#4 ++ 0#4 ++ 0#8) = f ++ 0#4 ++ 0#8
  rw [BitVec.and_append, BitVec.and_append, and_allOnes4, BitVec.and_zero, BitVec.and_zero]

theorem wordXS_mask (f : BitVec 4) (x : RegIx) (kk : Byte) : wordXK f x kk &&& 0xF0FF = wordXK f 0 kk := by
  show (f ++ BitVec.ofFin (w := 4) x ++ kk) &&& (0xF#4 ++ 0#4 ++ 0xFF#8) = f ++ 0#4 ++ kk
  rw [BitVec.and_append, BitVec.and_append, and_allOnes4, BitVec.and_zero, and_allOnes8]

theorem wordXY_mask (f : BitVec 4) (x y : RegIx) (n : BitVec 4) : wordXYN f x y n &&& 0xF00F = wordXYN f 0 0 n := by
  show (f ++ BitVec.ofFin (w := 4) x ++ BitVec.ofFin (w := 4) y ++ n) &&& (0xF#4 ++ 0#4 ++ 0#4 ++ 0xF#4)
    = f ++ 0#4 ++ 0#4 ++ n
  rw [BitVec.and_append, BitVec.and_append, BitVec.and_append, and_allOnes4, and_allOnes4, BitVec.and_zero,
    BitVec.and_zero]

theorem wordXYN_mask (f : BitVec 4) (x y : RegIx) (n : BitVec 4) : wordXYN f x y n &&& 0xF000 = wordXYN f 0 0 0 := by
  show (f ++ BitVec.ofFin (w := 4) x ++ BitVec.ofFin (w := 4) y ++ n) &&& (0xF#4 ++ 0#4 ++ 0#4 ++ 0#4)
    = f ++ 0#4 ++ 0#4 ++ 0#4
  rw [BitVec.and_append, BitVec.and_append, BitVec.and_append, and_allOnes4, BitVec.and_zero, BitVec.and_zero,
    BitVec.and_zero]

/-! ### The lemmas, one per constructor -/

theorem OpcodeRow.cls : OpcodeRow.Statement (.cls) := rfl
theorem OpcodeRow.ret : OpcodeRow.Statement (.ret) := rfl
theorem OpcodeRow.jp (nnn : BitVec 12) : OpcodeRow.Statement (.jp nnn) := (wordA_mask _ nnn).trans rfl
theorem OpcodeRow.call (nnn : BitVec 12) : OpcodeRow.Statement (.call nnn) := (wordA_mask _ nnn).trans rfl
theorem OpcodeRow.seVxKk (x : RegIx) (kk : Byte) : OpcodeRow.Statement (.seVxKk x kk) := (wordXK_mask _ x kk).trans rfl
theorem OpcodeRow.sneVxKk (x : RegIx) (kk : Byte) : OpcodeRow.Statement (.sneVxKk x kk) := (wordXK_mask _ x kk).trans rfl
theorem OpcodeRow.seVxVy (x : RegIx) (y : RegIx) : OpcodeRow.Statement (.seVxVy x y) := (wordXY_mask _ x y _).trans rfl
theorem OpcodeRow.ldVxKk (x : RegIx) (kk : Byte) : OpcodeRow.Statement (.ldVxKk x kk) := (wordXK_mask _ x kk).trans rfl
theorem OpcodeRow.addVxKk (x : RegIx) (kk : Byte) : OpcodeRow.Statement (.addVxKk x kk) := (wordXK_mask _ x kk).trans rfl
theorem OpcodeRow.ldVxVy (x : RegIx) (y : RegIx) : OpcodeRow.Statement (.ldVxVy x y) := (wordXY_mask _ x y _).trans rfl
theorem OpcodeRow.orVxVy (x : RegIx) (y : RegIx) : OpcodeRow.Statement (.orVxVy x y) := (wordXY_mask _ x y _).trans rfl
theorem OpcodeRow.andVxVy (x : RegIx) (y : RegIx) : OpcodeRow.Statement (.andVxVy x y) := (wordXY_mask _ x y _).trans rfl
theorem OpcodeRow.xorVxVy (x : RegIx) (y : RegIx) : OpcodeRow.Statement (.xorVxVy x y) := (wordXY_mask _ x y _).trans rfl
theorem OpcodeRow.addVxVy (x : RegIx) (y : RegIx) : OpcodeRow.Statement (.addVxVy x y) := (wordXY_mask _ x y _).trans rfl
theorem OpcodeRow.subVxVy (x : RegIx) (y : RegIx) : OpcodeRow.Statement (.subVxVy x y) := (wordXY_mask _ x y _).trans rfl
theorem OpcodeRow.shrVxVy (x : RegIx) (y : RegIx) : OpcodeRow.Statement (.shrVxVy x y) := (wordXY_mask _ x y _).trans rfl
theorem OpcodeRow.subnVxVy (x : RegIx) (y : RegIx) : OpcodeRow.Statement (.subnVxVy x y) := (wordXY_mask _ x y _).trans rfl
theorem OpcodeRow.shlVxVy (x : RegIx) (y : RegIx) : OpcodeRow.Statement (.shlVxVy x y) := (wordXY_mask _ x y _).trans rfl
theorem OpcodeRow.sneVxVy (x : RegIx) (y : RegIx) : OpcodeRow.Statement (.sneVxVy x y) := (wordXY_mask _ x y _).trans rfl
theorem OpcodeRow.ldINnn (nnn : BitVec 12) : OpcodeRow.Statement (.ldINnn nnn) := (wordA_mask _ nnn).trans rfl
theorem OpcodeRow.jpV0Nnn (nnn : BitVec 12) : OpcodeRow.Statement (.jpV0Nnn nnn) := (wordA_mask _ nnn).trans rfl
theorem OpcodeRow.rndVxKk (x : RegIx) (kk : Byte) : OpcodeRow.Statement (.rndVxKk x kk) := (wordXK_mask _ x kk).trans rfl
theorem OpcodeRow.drwVxVyN (x : RegIx) (y : RegIx) (n : BitVec 4) : OpcodeRow.Statement (.drwVxVyN x y n) := (wordXYN_mask _ x y n).trans rfl
theorem OpcodeRow.skpVx (x : RegIx) : OpcodeRow.Statement (.skpVx x) := (wordXS_mask _ x _).trans rfl
theorem OpcodeRow.sknpVx (x : RegIx) : OpcodeRow.Statement (.sknpVx x) := (wordXS_mask _ x _).trans rfl
theorem OpcodeRow.ldVxDT (x : RegIx) : OpcodeRow.Statement (.ldVxDT x) := (wordXS_mask _ x _).trans rfl
theorem OpcodeRow.ldVxK (x : RegIx) : OpcodeRow.Statement (.ldVxK x) := (wordXS_mask _ x _).trans rfl
theorem OpcodeRow.ldDTVx (x : RegIx) : OpcodeRow.Statement (.ldDTVx x) := (wordXS_mask _ x _).trans rfl
theorem OpcodeRow.ldSTVx (x : RegIx) : OpcodeRow.Statement (.ldSTVx x) := (wordXS_mask _ x _).trans rfl
theorem OpcodeRow.addIVx (x : RegIx) : OpcodeRow.Statement (.addIVx x) := (wordXS_mask _ x _).trans rfl
theorem OpcodeRow.ldFVx (x : RegIx) : OpcodeRow.Statement (.ldFVx x) := (wordXS_mask _ x _).trans rfl
theorem OpcodeRow.ldBVx (x : RegIx) : OpcodeRow.Statement (.ldBVx x) := (wordXS_mask _ x _).trans rfl
theorem OpcodeRow.ldMemVx (x : RegIx) : OpcodeRow.Statement (.ldMemVx x) := (wordXS_mask _ x _).trans rfl
theorem OpcodeRow.ldVxMem (x : RegIx) : OpcodeRow.Statement (.ldVxMem x) := (wordXS_mask _ x _).trans rfl

end Sys2Proof.Laws
end

