-- ==== Sys2Proof/Laws/Step.lean ====
section
/-! SUPPORT. What an instruction and a step can do, said once. Proofs about all instructions or all steps start from
`exec_cases` and `step_cases`. -/

namespace Sys2Proof.Machine

@[simp] theorem mapNext_next (f : State → State) (t : State) : mapNext f (.next t) = .next (f t) := rfl

/-! ### Frames -/

/-- A general register that is not written keeps its value when V is unchanged. -/
theorem Unchanged.refl (p : Part) (s : State) : Unchanged p s s := by cases p <;> simp [Unchanged]

theorem Frame.refl (ps : List Part) (s : State) : Frame ps s s := fun p _ => .refl p s

/-- A frame from equality of the fields, for the parts that are compared by value and not by field. -/
theorem unchanged_V {s t : State} (h : t.V = s.V) : Unchanged .V s t := fun r => State.getV_congr h r

theorem unchanged_mem {s t : State} (h : t.mem = s.mem) (hc : t.cfg = s.cfg) : Unchanged .mem s t :=
  fun a => State.byteAt_congr h hc a

/-- A fatal fault changes `run` and the outputs and nothing else. -/
theorem frame_withFault (s : State) (f : FatalFault) : Frame [.run, .out] s (s.withFault f) := by
  intro p hp
  cases p <;> first
    | exact absurd (by decide) hp
    | exact unchanged_V rfl
    | exact unchanged_mem rfl rfl
    | rfl

/-! ### Instructions -/

/-- What every instruction that takes no fault leaves alone. -/
structure ExecKeeps (i : Instr) (s t : State) : Prop where
  out : t.out = s.out
  cfg : t.cfg = s.cfg
  key : t.key = s.key
  inputs : t.inputs = s.inputs
  iter : t.iter = s.iter
  rand : t.rand = s.rand
  frameAcc : t.frameAcc = s.frameAcc
  audioOn : t.audioOn = s.audioOn
  run : t.run = s.run ∨ ∃ x, i = .ldVxK x ∧ t.run = .waitingForKey x
  /-- every cell of memory is an old one or lies in 0x200..0xFFE, and the canonical form is kept -/
  cells : ∀ c ∈ t.mem, c ∈ s.mem ∨ (Params.fontEnd ≤ c.1 ∧ c.1 < Params.memSize)
  wf : s.mem.wf s.cfg.resetByte → t.mem.wf s.cfg.resetByte
  font : ∀ a, a < Params.fontEnd → t.byteAt a = s.byteAt a

/-- An instruction that leaves these fields as they are keeps what `ExecKeeps` says. -/
theorem ExecKeeps.of_fields {i : Instr} {s t : State} (out : t.out = s.out) (cfg : t.cfg = s.cfg) (key : t.key = s.key)
    (inputs : t.inputs = s.inputs) (iter : t.iter = s.iter) (rand : t.rand = s.rand)
    (frameAcc : t.frameAcc = s.frameAcc) (audioOn : t.audioOn = s.audioOn) (mem : t.mem = s.mem)
    (run : t.run = s.run) : ExecKeeps i s t where
  out := out
  cfg := cfg
  key := key
  inputs := inputs
  iter := iter
  rand := rand
  frameAcc := frameAcc
  audioOn := audioOn
  run := .inl run
  cells := fun _ h => .inl (mem ▸ h)
  wf := fun h => mem ▸ h
  font := fun a _ => State.byteAt_congr mem cfg a

/-- A data store whose addresses pass the write checks keeps what `ExecKeeps` says. -/
theorem ExecKeeps.of_storeData {i : Instr} {s : State} {bs : List Byte} (h : s.writeFaults bs.length = none) :
    ExecKeeps i s (s.storeData bs) := by
  have hok := State.writeFaults_none.1 h
  have hz : ∀ c ∈ (s.eas bs.length).zip bs, Params.fontEnd ≤ c.1 ∧ c.1 < Params.memSize := by
    intro c hc
    obtain ⟨k, hk, e⟩ := State.mem_eas.1 (List.of_mem_zip hc).1
    exact e ▸ hok k hk
  exact
    { out := by simp
      cfg := by simp
      key := by simp
      inputs := by simp
      iter := by simp
      rand := by simp
      frameAcc := by simp
      audioOn := by simp
      run := .inl (by simp)
      cells := fun c hc => (s.mem_storeAll hc).symm.imp_right (hz c)
      wf := fun hw => s.storeAll_wf hw fun c hc => (hz c hc).2
      font := fun a ha => s.byteAt_storeData_other fun hm => by
        obtain ⟨k, hk, e⟩ := State.mem_eas.1 hm
        have := (hok k hk).1
        omega }

/-- The result of a checked access is the fault or the access. -/
theorem execKeeps_unlessFault {i : Instr} {s t u : State} {check : Option FatalFault}
    (h : s.unlessFault check t = .next u) (ht : check = none → ExecKeeps i s t) :
    (∃ f, u = s.withFault f) ∨ ExecKeeps i s u := by
  rcases State.unlessFault_cases h with ⟨hc, rfl⟩ | ⟨f, _, rfl⟩
  · exact .inr (ht hc)
  · exact .inl ⟨f, rfl⟩

theorem ExecKeeps.of_setFB_setFlag {i : Instr} {s : State} {f : Framebuffer} {c : Bool} :
    ExecKeeps i s ((s.setFB f).setFlag c) := .of_fields rfl rfl rfl rfl rfl rfl rfl rfl rfl rfl

/-- A draw, with what it draws named. -/
theorem exec_drwVxVyN (x y : RegIx) (n : BitVec 4) (s : State) :
    exec (.drwVxVyN x y n) s = s.unlessFault (s.readFaults n.toNat)
      ((s.setFB (drawSprite s.cfg.collision (startColumn (s.getV x)) (startRow (s.getV y)) s.FB
        (s.dataBytes n.toNat)).1).setFlag
        (drawSprite s.cfg.collision (startColumn (s.getV x)) (startRow (s.getV y)) s.FB (s.dataBytes n.toNat)).2) := rfl

theorem exec_ldVxMem (x : RegIx) (s : State) :
    exec (.ldVxMem x) s = s.unlessFault (s.readFaults (x.val + 1)) (s.loadRegs x) := rfl

theorem exec_ldBVx (x : RegIx) (s : State) :
    exec (.ldBVx x) s = s.unlessFault (s.writeFaults 3)
      (s.storeData [hundreds (s.getV x), tens (s.getV x), ones (s.getV x)]) := rfl

theorem exec_ldMemVx (x : RegIx) (s : State) :
    exec (.ldMemVx x) s = s.unlessFault (s.writeFaults (x.val + 1)) (s.storeData (s.regsUpTo x)) := rfl

/-- An instruction takes a fatal fault, which changes nothing but `run` and the diagnostic, or keeps what `ExecKeeps`
says. -/
theorem exec_cases {i : Instr} {s t : State} (h : exec i s = .next t) :
    (∃ f, t = s.withFault f) ∨ ExecKeeps i s t := by
  cases i with
  | ret =>
    rcases State.popPc_cases h with ⟨_, rfl⟩ | ⟨_, rfl⟩
    · exact .inr (.of_fields rfl rfl rfl rfl rfl rfl rfl rfl rfl rfl)
    · exact .inl ⟨_, rfl⟩
  | call nnn =>
    rcases State.callTo_cases h with ⟨_, rfl⟩ | ⟨_, rfl⟩
    · exact .inr (.of_fields rfl rfl rfl rfl rfl rfl rfl rfl rfl rfl)
    · exact .inl ⟨_, rfl⟩
  | skpVx x =>
    rcases State.skipIfKey_cases h with ⟨_, rfl⟩ | ⟨_, rfl⟩
    · exact .inr (.of_fields (by simp) (by simp) (by simp) (by simp) (by simp) (by simp) (by simp) (by simp) (by simp)
        (by simp))
    · exact .inl ⟨_, rfl⟩
  | sknpVx x =>
    rcases State.skipIfKey_cases h with ⟨_, rfl⟩ | ⟨_, rfl⟩
    · exact .inr (.of_fields (by simp) (by simp) (by simp) (by simp) (by simp) (by simp) (by simp) (by simp) (by simp)
        (by simp))
    · exact .inl ⟨_, rfl⟩
  | drwVxVyN x y n =>
    rw [exec_drwVxVyN] at h
    exact execKeeps_unlessFault h fun _ => .of_setFB_setFlag
  | ldVxMem x =>
    rw [exec_ldVxMem] at h
    exact execKeeps_unlessFault h fun _ => .of_fields (State.loadRegs_out s x) (State.loadRegs_cfg s x)
      (State.loadRegs_key s x) (State.loadRegs_inputs s x) (State.loadRegs_iter s x) (State.loadRegs_rand s x)
      (State.loadRegs_frameAcc s x) (State.loadRegs_audioOn s x) (State.loadRegs_mem s x) (State.loadRegs_run s x)
  | ldBVx x =>
    rw [exec_ldBVx] at h
    exact execKeeps_unlessFault h fun hc => .of_storeData hc
  | ldMemVx x =>
    rw [exec_ldMemVx] at h
    exact execKeeps_unlessFault h fun hc => .of_storeData (by rwa [State.regsUpTo_length])
  | ldVxK x =>
    cases h
    exact .inr
      { ExecKeeps.of_fields (i := .ldVxK x) (s := s) (t := s.setReleased none) rfl rfl rfl rfl rfl rfl rfl rfl rfl rfl with
        run := .inr ⟨x, rfl, rfl⟩ }
  | seVxKk _ _ | sneVxKk _ _ | seVxVy _ _ | sneVxVy _ _ =>
    cases h
    exact .inr (.of_fields (by simp) (by simp) (by simp) (by simp) (by simp) (by simp) (by simp) (by simp) (by simp)
      (by simp))
  | _ =>
    cases h
    exact .inr (.of_fields rfl rfl rfl rfl rfl rfl rfl rfl rfl rfl)

/-! ### Steps -/

/-- `exec` answers a next state or nothing: if step 2 runs an instruction, its result is the iteration's. -/
theorem executeNext_of_instr {s : State} {i : Instr} (h : s.fetched = .instr i) : executeNext s = exec i s.advance := by
  rw [executeNext, h]

theorem executeNext_of_fault {s : State} {f : FatalFault} (h : s.fetched = .fault f) :
    executeNext s = .next (s.withFault f) := by
  rw [executeNext, h]
  rfl

theorem executeNext_of_unrecognized {s : State} {op : Word} (h : s.fetched = .unrecognized op) :
    executeNext s = .next (s.advance.logUnrecognized op) := by
  rw [executeNext, h]

/-- Step 2 in `Running` faults at the fetch, executes an instruction, or reports an opcode. -/
theorem executeNext_cases {s u : State} (h : executeNext s = .next u) :
    (∃ f, s.fetched = .fault f ∧ u = s.withFault f) ∨
    (∃ i, s.fetched = .instr i ∧ exec i s.advance = .next u) ∨
    ∃ op, s.fetched = .unrecognized op ∧ u = s.advance.logUnrecognized op := by
  cases hf : s.fetched with
  | fault f =>
    rw [executeNext_of_fault hf] at h
    cases h
    exact .inl ⟨f, rfl, rfl⟩
  | instr i =>
    rw [executeNext_of_instr hf] at h
    exact .inr (.inl ⟨i, rfl, h⟩)
  | unrecognized op =>
    rw [executeNext_of_unrecognized hf] at h
    cases h
    exact .inr (.inr ⟨op, rfl, rfl⟩)

/-- An iteration whose step 2 leaves `u` ends in `u` after steps 3 and 4. -/
theorem step_of_afterStepTwo {s u : State} (h : AfterStepTwo s u) :
    step s = .next (u.finishIteration s.nextInput.frameDue) := by
  obtain ⟨hq, ⟨hr, hu⟩ | ⟨x, hr, rfl⟩⟩ := h
  · have hu' : executeNext (s.beginIteration.poll s.nextInput) = .next u := hu
    simp [step, hr, iterate, hq, hu']
  · simp [step, hr, iterate, hq, State.polled]

/-- A step ends the run by quit, or runs step 2 and then steps 3 and 4. -/
theorem step_cases {s t : State} (h : step s = .next t) :
    (s.Enabled ∧ s.nextInput.quit = true ∧ t = s.beginIteration.quit) ∨
    ∃ u, AfterStepTwo s u ∧ t = u.finishIteration s.nextInput.frameDue := by
  unfold step at h
  cases hr : s.run with
  | running =>
    simp only [hr, iterate] at h
    cases hq : s.nextInput.quit with
    | true =>
      simp only [hq] at h
      cases h
      exact .inl ⟨.inl hr, rfl, rfl⟩
    | false =>
      simp only [hq, Bool.false_eq_true, if_false] at h
      cases he : executeNext (s.beginIteration.poll s.nextInput) with
      | next u =>
        rw [he, mapNext_next] at h
        cases h
        exact .inr ⟨u, ⟨hq, .inl ⟨hr, he⟩⟩, rfl⟩
      | fault r => rw [he] at h; cases h
      | refused r => rw [he] at h; cases h
  | waitingForKey x =>
    simp only [hr, iterate] at h
    cases hq : s.nextInput.quit with
    | true =>
      simp only [hq] at h
      cases h
      exact .inl ⟨.inr ⟨x, hr⟩, rfl, rfl⟩
    | false =>
      simp only [hq, Bool.false_eq_true, if_false] at h
      cases h
      exact .inr ⟨_, ⟨hq, .inr ⟨x, hr, rfl⟩⟩, rfl⟩
  | ended => simp [hr] at h
  | faulted f => simp [hr] at h

/-- A quit in an enabled iteration. -/
theorem step_of_quit {s : State} (he : s.Enabled) (hq : s.nextInput.quit = true) :
    step s = .next s.beginIteration.quit := by
  rcases he with hr | ⟨x, hr⟩ <;> simp [step, hr, iterate, hq]

end Sys2Proof.Machine
end

