-- ==== Sys2Proof/Tests/Slice0.lean ====
section
/-! SUPPORT. Tests, and a witness for the hypotheses of every statement. Each expected result is one of
95_test_vectors.md, cited by its number there, or is worked from the rule cited. -/

open Sys2Proof Sys2Proof.Machine

namespace Sys2Proof.Tests

/-! ### Helpers -/

/-- The reset state before an iteration whose input reports nothing. -/
def quiet : State := State.reset.withInputs [Input.quiet]

/-- A state with these registers changed. -/
def regs (l : List (RegIx × Byte)) (s : State) : State := l.foldl (fun s c => s.setV c.1 c.2) s

/-- A state with the bytes `bs` at `a` and on. -/
def bytes (a : Nat) (bs : List Byte) (s : State) : State :=
  match bs with
  | [] => s
  | b :: rest => bytes (a + 1) rest (s.storeByte a b)

/-- A state with these pixels set. -/
def pixels (l : List (Nat × Nat)) (s : State) : State :=
  l.foldl (fun s c => s.setFB (Vector.ofFn fun py => Vector.ofFn fun px =>
    (px.val, py.val) == c || s.FB.pixel px.val py.val)) s

/-- A check of the state after the step that runs the word `w`. -/
def after (w : Nat) (s : State) (p : State → Bool) : Bool :=
  match step (s.withFetchWord 16 w) with
  | .next t => p t
  | _ => false

/-- A check of the state after `n` steps. -/
def steps (n : Nat) (s : State) (p : State → Bool) : Bool :=
  match n with
  | 0 => p s
  | n + 1 => match step s with
    | .next t => steps n t p
    | _ => false

/-- The pixels of row `py` from column `x0` on, `n` of them. -/
def row (t : State) (x0 py n : Nat) : List Bool := (List.range n).map fun c => t.FB.pixel (x0 + c) py

/-- The state of a result, or `s` if there is none. -/
def nextOf (r : Result) (s : State) : State :=
  match r with
  | .next t => t
  | _ => s

/-! ### WellFormed: what is refused, and what is not (R5, R207, R243) -/

theorem test_rate_499_refused : ({ Params.defaultConfig with instrRateHz := 499 } : Config).wf = false := by decide
theorem test_rate_701_refused : ({ Params.defaultConfig with instrRateHz := 701 } : Config).wf = false := by decide
theorem test_rate_500_700_accepted :
    ({ Params.defaultConfig with instrRateHz := 500 } : Config).wf = true ∧
    ({ Params.defaultConfig with instrRateHz := 700 } : Config).wf = true := by decide
theorem test_frame_iter_0_refused :
    ({ Params.defaultConfig with schedule := .virtualClock 0 } : Config).wf = false := by decide
theorem test_default_parameters_accepted : Params.defaultConfig.wf = true := by decide
/-- L1-10: an ill-formed image is refused. -/
theorem test_image_3216_refused : imageFits (List.replicate 3216 0) = false :=
  decide_eq_false (by rw [List.length_replicate]; decide)
theorem test_image_3216_not_loaded (c : Config) : State.init c (List.replicate 3216 0) = none :=
  if_neg (by rw [test_image_3216_refused]; decide)
theorem test_image_3215_accepted : imageFits (List.replicate 3215 0) = true :=
  decide_eq_true (by rw [List.length_replicate]; decide)
theorem test_image_0_accepted : imageFits [] = true := by decide

/-! ### Decoding: words written out from R76 and R79 -/

theorem test_decode_0 : decodeWord 0x00E0 = .ok .cls ∧ decodeWord 0x00EE = .ok .ret ∧
    decodeWord 0x00E1 = .error .family0 ∧ decodeWord 0x0123 = .error .family0 := by decide
theorem test_decode_1_to_4 : decodeWord 0x1ABC = .ok (.jp 0xABC) ∧ decodeWord 0x2F01 = .ok (.call 0xF01) ∧
    decodeWord 0x3A42 = .ok (.seVxKk 0xA 0x42) ∧ decodeWord 0x4B43 = .ok (.sneVxKk 0xB 0x43) := by decide
theorem test_decode_5 : decodeWord 0x51A0 = .ok (.seVxVy 0x1 0xA) ∧ decodeWord 0x5121 = .error .family5 := by decide
theorem test_decode_6_7 : decodeWord 0x6A7F = .ok (.ldVxKk 0xA 0x7F) ∧
    decodeWord 0x75FE = .ok (.addVxKk 0x5 0xFE) := by decide
theorem test_decode_8 : decodeWord 0x81A0 = .ok (.ldVxVy 0x1 0xA) ∧ decodeWord 0x81A1 = .ok (.orVxVy 0x1 0xA) ∧
    decodeWord 0x81A2 = .ok (.andVxVy 0x1 0xA) ∧ decodeWord 0x81A3 = .ok (.xorVxVy 0x1 0xA) ∧
    decodeWord 0x81A4 = .ok (.addVxVy 0x1 0xA) ∧ decodeWord 0x81A5 = .ok (.subVxVy 0x1 0xA) ∧
    decodeWord 0x81A6 = .ok (.shrVxVy 0x1 0xA) ∧ decodeWord 0x81A7 = .ok (.subnVxVy 0x1 0xA) ∧
    decodeWord 0x81AE = .ok (.shlVxVy 0x1 0xA) := by decide
theorem test_decode_8_refused : decodeWord 0x8128 = .error .family8 ∧ decodeWord 0x812D = .error .family8 ∧
    decodeWord 0x812F = .error .family8 := by decide
theorem test_decode_9 : decodeWord 0x91A0 = .ok (.sneVxVy 0x1 0xA) ∧ decodeWord 0x9121 = .error .family9 := by decide
theorem test_decode_A_to_D : decodeWord 0xA123 = .ok (.ldINnn 0x123) ∧ decodeWord 0xB300 = .ok (.jpV0Nnn 0x300) ∧
    decodeWord 0xC30F = .ok (.rndVxKk 0x3 0x0F) ∧ decodeWord 0xD1AF = .ok (.drwVxVyN 0x1 0xA 0xF) := by decide
theorem test_decode_E : decodeWord 0xE29E = .ok (.skpVx 0x2) ∧ decodeWord 0xE3A1 = .ok (.sknpVx 0x3) ∧
    decodeWord 0xE09F = .error .familyE := by decide
theorem test_decode_F : decodeWord 0xF307 = .ok (.ldVxDT 0x3) ∧ decodeWord 0xF30A = .ok (.ldVxK 0x3) ∧
    decodeWord 0xF415 = .ok (.ldDTVx 0x4) ∧ decodeWord 0xF418 = .ok (.ldSTVx 0x4) ∧
    decodeWord 0xF11E = .ok (.addIVx 0x1) ∧ decodeWord 0xF529 = .ok (.ldFVx 0x5) ∧
    decodeWord 0xF633 = .ok (.ldBVx 0x6) ∧ decodeWord 0xF255 = .ok (.ldMemVx 0x2) ∧
    decodeWord 0xF265 = .ok (.ldVxMem 0x2) ∧ decodeWord 0xF0FF = .error .familyF := by decide
theorem test_decode_bytes : decode [0x12, 0x34, 0x56] = .ok (.jp 0x234, [0x56]) ∧
    decode [0x12] = .error .truncated ∧ decode [] = .error .truncated := by decide
theorem test_decode_table_word : decodeTableWord 16 0x8124 = some (.addVxVy 1 2) ∧
    decodeTableWord 16 0x8128 = none := by decide
theorem test_encode : encode (.drwVxVyN 0x1 0xA 0xF) = [0xD1, 0xAF] ∧ encode (.jp 0xABC) = [0x1A, 0xBC] := by decide

/-! ### Flow and immediates (L2-A) -/

/-- A1. -/
theorem test_cls : after 0x00E0 (pixels [(0, 0), (63, 31)] quiet) (fun t =>
    !t.FB.pixel 0 0 && !t.FB.pixel 63 31 && t.pc == 0x202) = true := by decide
/-- A2. -/
theorem test_ret : after 0x00EE { quiet with sp := 1, stack := quiet.stack.set 0 0x0204 } (fun t =>
    t.pc == 0x204 && t.sp == 0) = true := by decide
/-- A3. -/
theorem test_ret_underflow : after 0x00EE { quiet with frameAcc := 9 } (fun t =>
    t.run == .faulted (.stackUnderflow 0x200) && t.pc == 0x202 && t.sp == 0 && t.out.render == none) = true := by decide
/-- A4. -/
theorem test_jp : after 0x1ABC quiet (fun t => t.pc == 0xABC) = true := by decide
/-- A7. -/
theorem test_call : after 0x2300 quiet (fun t => t.sp == 1 && t.stack[0] == 0x202 && t.pc == 0x300) = true := by decide
/-- A8. -/
theorem test_call_overflow : after 0x2300 { quiet with sp := 8 } (fun t =>
    t.run == .faulted (.stackOverflow 0x200) && t.sp == 8 && t.pc == 0x202) = true := by decide
/-- A9, A10. -/
theorem test_seVxKk : after 0x3342 (regs [(3, 0x42)] quiet) (fun t => t.pc == 0x204) = true ∧
    after 0x3343 (regs [(3, 0x42)] quiet) (fun t => t.pc == 0x202) = true := by decide
/-- A11, A12. -/
theorem test_sneVxKk : after 0x4343 (regs [(3, 0x42)] quiet) (fun t => t.pc == 0x204) = true ∧
    after 0x4342 (regs [(3, 0x42)] quiet) (fun t => t.pc == 0x202) = true := by decide
/-- A13, A14. -/
theorem test_seVxVy : after 0x5120 (regs [(1, 7), (2, 7)] quiet) (fun t => t.pc == 0x204) = true ∧
    after 0x5120 (regs [(1, 7), (2, 8)] quiet) (fun t => t.pc == 0x202) = true := by decide
/-- A16. -/
theorem test_unrecognized_no_skip : after 0x5121 (regs [(1, 1), (2, 1)] quiet) (fun t =>
    t.out.log == some 0x5121 && t.pc == 0x202) = true := by decide
/-- A17. -/
theorem test_ldVxKk : after 0x6A7F quiet (fun t => t.getV 0xA == 0x7F) = true := by decide
/-- A18. -/
theorem test_addVxKk : after 0x7001 (regs [(0, 0xFF), (0xF, 0x55)] quiet) (fun t =>
    t.getV 0 == 0x00 && t.getV 0xF == 0x55) = true := by decide
/-- A20. -/
theorem test_addVxKk_VF : after 0x7F01 (regs [(0xF, 0xFF)] quiet) (fun t => t.getV 0xF == 0x00) = true := by decide

/-! ### ALU (L2-B) -/

/-- B1. -/
theorem test_ldVxVy : after 0x8120 (regs [(1, 5), (2, 9)] quiet) (fun t =>
    t.getV 1 == 9 && t.getV 2 == 9) = true := by decide
/-- B2. -/
theorem test_orVxVy : after 0x8121 (regs [(1, 0xF0), (2, 0x0F), (0xF, 0x33)] quiet) (fun t =>
    t.getV 1 == 0xFF && t.getV 0xF == 0x33) = true := by decide
/-- B3. -/
theorem test_andVxVy : after 0x8122 (regs [(1, 0xF0), (2, 0x3C)] quiet) (fun t => t.getV 1 == 0x30) = true := by decide
/-- B4. -/
theorem test_xorVxVy : after 0x8123 (regs [(1, 0xF0), (2, 0x3C)] quiet) (fun t => t.getV 1 == 0xCC) = true := by decide
/-- B6. -/
theorem test_addVxVy : after 0x8124 (regs [(1, 0xFF), (2, 0x01)] quiet) (fun t =>
    t.getV 1 == 0x00 && t.getV 0xF == 1) = true := by decide
/-- B8. -/
theorem test_addVxVy_VF : after 0x8F14 (regs [(0xF, 0xFF), (1, 0x01)] quiet) (fun t => t.getV 0xF == 1) = true := by decide
/-- B11, B12. -/
theorem test_subVxVy : after 0x8125 (regs [(1, 3), (2, 5)] quiet) (fun t =>
      t.getV 1 == 0xFE && t.getV 0xF == 0) = true ∧
    after 0x8125 (regs [(1, 5), (2, 5)] quiet) (fun t => t.getV 1 == 0x00 && t.getV 0xF == 0) = true := by decide
/-- B14. -/
theorem test_subVxVy_old_VF : after 0x81F5 (regs [(1, 9), (0xF, 2)] quiet) (fun t =>
    t.getV 1 == 0x07 && t.getV 0xF == 1) = true := by decide
/-- B16, B17. -/
theorem test_subnVxVy : after 0x8127 (regs [(1, 3), (2, 5)] quiet) (fun t =>
      t.getV 1 == 0x02 && t.getV 0xF == 1) = true ∧
    after 0x8127 (regs [(1, 5), (2, 5)] quiet) (fun t => t.getV 1 == 0x00 && t.getV 0xF == 0) = true := by decide
/-- B18. -/
theorem test_shrVxVy : after 0x8126 (regs [(1, 0xAA), (2, 0x05)] quiet) (fun t =>
    t.getV 1 == 0x02 && t.getV 0xF == 1 && t.getV 2 == 0x05) = true := by decide
/-- B20. -/
theorem test_shrVxVy_VF : after 0x8F26 (regs [(2, 0x03)] quiet) (fun t => t.getV 0xF == 1) = true := by decide
/-- B22. -/
theorem test_shlVxVy : after 0x812E (regs [(2, 0x81)] quiet) (fun t =>
    t.getV 1 == 0x02 && t.getV 0xF == 1) = true := by decide
/-- B23. -/
theorem test_shlVxVy_same : after 0x811E (regs [(1, 0x40)] quiet) (fun t =>
    t.getV 1 == 0x80 && t.getV 0xF == 0) = true := by decide

/-! ### Index, jump with offset, random (L2-C) -/

/-- C1, C2. -/
theorem test_sneVxVy : after 0x9120 (regs [(1, 7), (2, 8)] quiet) (fun t => t.pc == 0x204) = true ∧
    after 0x9120 (regs [(1, 7), (2, 7)] quiet) (fun t => t.pc == 0x202) = true := by decide
/-- C4, C5. -/
theorem test_ldINnn : after 0xA123 quiet (fun t => t.I == 0x0123) = true ∧
    after 0xAFFF quiet (fun t => t.I == 0x0FFF) = true := by decide
/-- C6, C7. -/
theorem test_jpV0Nnn : after 0xB300 (regs [(0, 0x10)] quiet) (fun t => t.pc == 0x310) = true ∧
    after 0xBFFF (regs [(0, 0xFF)] quiet) (fun t => t.pc == 0x10FE) = true := by decide
/-- C9. -/
theorem test_rndVxKk : after 0xC30F (State.reset.withInputs [{ Input.quiet with rand := 0xA5 }]) (fun t =>
    t.getV 3 == 0x05) = true := by decide

/-! ### Draw (L2-D) -/

/-- D2: clipped, not wrapped. -/
theorem test_drw_clips : after 0xD011 (regs [(0, 60)] (bytes 0x300 [0xFF] { quiet with I := 0x300 })) (fun t =>
    row t 59 0 5 == [false, true, true, true, true] && row t 0 0 5 == [false, false, false, false, false] &&
    row t 0 1 4 == [false, false, false, false] && t.getV 0xF == 0) = true := by decide
/-- D11, D12: both collision rules. D8: a fault writes no pixel, even for row 0, and no flag. -/
theorem test_drw_flag_and_fault :
    after 0xD011 (pixels [(3, 0)] (bytes 0x300 [0x00] { quiet with I := 0x300 })) (fun t => t.getV 0xF == 1) = true ∧
    after 0xD011 (pixels [(0, 0)] (bytes 0x300 [0x80] { quiet with
      I := 0x300, cfg := { Params.defaultConfig with collision := .erased } })) (fun t => t.getV 0xF == 1) = true ∧
    after 0xD012 (regs [(0xF, 5)] (bytes 0xFFE [0xFF] { quiet with I := 0xFFE })) (fun t =>
      t.run == .faulted (.inaccessibleDataAddress 0x200 0xFFF) && !t.FB.pixel 0 0 && t.getV 0xF == 5) = true := by
  decide

/-! ### Keys (L2-E) -/

/-- E1, E2. -/
theorem test_skpVx :
    after 0xE29E ((regs [(2, 5)] State.reset).withInputs [{ Input.quiet with keys := Input.quiet.keys.set 5 true }])
      (fun t => t.pc == 0x204) = true ∧
    after 0xE29E ((regs [(2, 4)] State.reset).withInputs [{ Input.quiet with keys := Input.quiet.keys.set 5 true }])
      (fun t => t.pc == 0x202) = true := by decide
/-- E5. -/
theorem test_skpVx_fault : after 0xE29E (regs [(2, 0x10)] quiet) (fun t =>
    t.run == .faulted (.invalidKey 0x200 0x10)) = true := by decide
/-- E3, E4. -/
theorem test_sknpVx :
    after 0xE2A1 ((regs [(2, 5)] State.reset).withInputs [{ Input.quiet with keys := Input.quiet.keys.set 5 true }])
      (fun t => t.pc == 0x202) = true ∧
    after 0xE2A1 ((regs [(2, 4)] State.reset).withInputs [{ Input.quiet with keys := Input.quiet.keys.set 5 true }])
      (fun t => t.pc == 0x204) = true := by decide
/-- E6. -/
theorem test_sknpVx_fault : after 0xE2A1 (regs [(2, 0xFF)] quiet) (fun t =>
    t.run == .faulted (.invalidKey 0x200 0xFF)) = true := by decide

/-! ### Timers, index arithmetic, font, BCD, block transfer (L2-F) -/

/-- F1. -/
theorem test_ldVxDT : after 0xF307 { quiet with DT := 0x3C } (fun t => t.getV 3 == 0x3C) = true := by decide
/-- F2. -/
theorem test_ldDTVx : after 0xF415 (regs [(4, 0x20)] quiet) (fun t => t.DT == 0x20) = true := by decide
/-- F3. -/
theorem test_ldSTVx : after 0xF418 (regs [(4, 0x08)] quiet) (fun t =>
    t.ST == 0x08 && t.out.audio == some true) = true := by decide
/-- L1-8, iteration 1. -/
theorem test_ldVxK : after 0xF30A quiet (fun t => t.run == .waitingForKey 3 && t.pc == 0x202) = true := by decide
/-- G9: a release reported in the same iteration does not count. -/
theorem test_ldVxK_latch : after 0xF30A (State.reset.withInputs [{ Input.quiet with release := some 0xB }]) (fun t =>
    t.run == .waitingForKey 3 && t.released == none) = true := by decide
/-- F4. -/
theorem test_addIVx : after 0xF11E (regs [(1, 0x01), (0xF, 7)] { quiet with I := 0x0FFF }) (fun t =>
    t.I == 0x1000 && t.getV 0xF == 7) = true := by decide
/-- F5. -/
theorem test_addIVx_wraps : after 0xF11E (regs [(1, 0x02)] { quiet with I := 0xFFFF }) (fun t =>
    t.I == 0x0001) = true := by decide
/-- F6, F7. -/
theorem test_ldFVx : after 0xF529 (regs [(5, 0x0A)] quiet) (fun t => t.I == 0x0032) = true ∧
    after 0xF529 (regs [(5, 0x1F)] quiet) (fun t => t.I == 0x004B) = true := by decide
/-- F9. -/
theorem test_ldBVx : after 0xF633 (regs [(6, 0xFE)] { quiet with I := 0x300 }) (fun t =>
    t.byteAt 0x300 == 2 && t.byteAt 0x301 == 5 && t.byteAt 0x302 == 4 && t.I == 0x300) = true := by decide
/-- F16: the first bad address in the order of `k`. -/
theorem test_ldBVx_fault : after 0xF633 (regs [(6, 1)] { quiet with I := 0xFFFE }) (fun t =>
    t.run == .faulted (.inaccessibleDataAddress 0x200 0xFFF)) = true := by decide
/-- F17, cut to four registers. -/
theorem test_ldMemVx : after 0xF355 (regs [(1, 0x11), (2, 0x22), (3, 0x33), (4, 0x44)] { quiet with I := 0x300 })
    (fun t => t.byteAt 0x300 == 0 && t.byteAt 0x301 == 0x11 && t.byteAt 0x303 == 0x33 && t.byteAt 0x304 == 0 &&
      t.I == 0x300) = true := by decide
/-- F19: nothing is written. -/
theorem test_ldMemVx_fault : after 0xF255 (regs [(0, 9)] { quiet with I := 0xFFD }) (fun t =>
    t.run == .faulted (.inaccessibleDataAddress 0x200 0xFFF) && t.byteAt 0xFFD == 0) = true := by decide
/-- F20. -/
theorem test_ldVxMem : after 0xF265 (bytes 0x300 [1, 5, 6] (regs [(3, 0x44)] { quiet with I := 0x300 })) (fun t =>
    t.getV 0 == 1 && t.getV 1 == 5 && t.getV 2 == 6 && t.getV 3 == 0x44 && t.I == 0x300) = true := by decide
/-- F21: a read of the font is allowed. -/
theorem test_ldVxMem_font : after 0xF265 quiet (fun t =>
    t.getV 0 == 0xF0 && t.getV 1 == 0x90 && t.getV 2 == 0x90) = true := by decide

/-! ### Fetch and scheduler (L2-G) -/

/-- G2. -/
theorem test_fetch_FFB : steps 1 { quiet with pc := 0xFFB } (fun t => t.out.log == some 0x0000 && t.pc == 0xFFD) = true := by
  decide
/-- G3, G4. -/
theorem test_fetch_fault :
    steps 1 { quiet with pc := 0xFFC } (fun t =>
      t.run == .faulted (.inaccessibleMemoryAddress 0xFFC) && t.pc == 0xFFC) = true ∧
    steps 1 { quiet with pc := 0x1FE } (fun t => t.run == .faulted (.inaccessibleMemoryAddress 0x1FE)) = true := by decide
/-- G5: an odd pc, and the byte order. -/
theorem test_fetch_odd : steps 1 (bytes 0x201 [0x12, 0x34] { quiet with pc := 0x201 }) (fun t => t.pc == 0x234) = true := by
  decide
/-- G11. -/
theorem test_quit : steps 1 ((bytes 0x200 [0x60, 0x01] State.reset).withInputs [{ Input.quiet with quit := true }])
    (fun t => t.run == .ended && t.pc == 0x200 && t.getV 0 == 0 && t.out == Output.none) = true := by decide
/-- R219: a release ends the wait. -/
theorem test_wait_release : steps 1 ({ State.reset with run := .waitingForKey 3, pc := 0x202 }.withInputs
    [{ Input.quiet with release := some 0xC }]) (fun t =>
      t.getV 3 == 0x0C && t.run == .running && t.pc == 0x202 && t.released == none) = true := by decide
/-- R203, R204, R207: the tenth iteration ticks (G6, iteration 10). -/
theorem test_tick : after 0x1204 { quiet with ST := 1, DT := 0, frameAcc := 9 } (fun t =>
    t.ST == 0 && t.DT == 0 && t.frameAcc == 0 && t.out.render.isSome && t.out.audio == some false) = true := by decide
/-- R203, R207: the ninth does not (G6, iteration 9). -/
theorem test_no_tick : after 0x1204 { quiet with ST := 1, frameAcc := 8 } (fun t =>
    t.ST == 1 && t.frameAcc == 9 && t.out.render == none && t.out.audio == some true) = true := by decide
/-- R206. -/
theorem test_terminal : step { quiet with run := .ended } = .fault .runEnded ∧
    step { quiet with run := .faulted (.stackOverflow 0x200) } = .fault (.runFaulted (.stackOverflow 0x200)) :=
  ⟨rfl, rfl⟩
/-- R39, R241: an empty image leaves the reset state. -/
theorem test_init_empty : State.init Params.defaultConfig [] = some State.reset := by decide
/-- R240: an image is loaded at 0x200. -/
theorem test_init_image : (State.init Params.defaultConfig [0x22, 0x00, 0x61]).map (fun s =>
    [s.byteAt 0x1FF, s.byteAt 0x200, s.byteAt 0x201, s.byteAt 0x202, s.byteAt 0x203]) =
      some [0x00, 0x22, 0x00, 0x61, 0x00] := by decide
/-- R31: glyph F of the default font. -/
theorem test_font : [State.reset.byteAt 0x4B, State.reset.byteAt 0x4F, State.reset.byteAt 0x50] = [0xF0, 0x80, 0x00] := by
  decide
/-- R50: memory stays canonical, and a byte written back to what initialisation left has no cell. -/
theorem test_memory_canonical :
    ((State.reset.storeByte 0x301 7).storeByte 0x300 9).mem = [(0x300, 9), (0x301, 7)] ∧
    ((State.reset.storeByte 0x301 7).storeByte 0x301 0).mem = [] := by decide

/-! ### Witnesses: for every statement with hypotheses, states and operands that meet all of them -/

/-- A waiting state before an iteration in which the key `r` is released. -/
def waiting (x : RegIx) (r : Option Key) : State :=
  { State.reset with run := .waitingForKey x }.withInputs [{ Input.quiet with release := r }]

/-- A state under the host clock before an iteration whose `frame_due` is `due`. -/
def hostClock (due : Bool) : State :=
  { State.reset with cfg := { Params.defaultConfig with schedule := .hostClock } }.withInputs
    [{ Input.quiet with frameDue := due }]

/-- The state after step 2 of an iteration of a running state. -/
def afterTwo (s : State) : State := nextOf (executeNext s.polled) s

theorem not_faulted_of_running {s : State} (h : s.run = .running) : ¬ s.Faulted := by
  rintro ⟨f, hf⟩
  rw [h] at hf
  cases hf

theorem not_faulted_of_waiting {s : State} {x : RegIx} (h : s.run = .waitingForKey x) : ¬ s.Faulted := by
  rintro ⟨f, hf⟩
  rw [h] at hf
  cases hf

theorem witness_DecodedWordEncodesBack : decodeWord 0x8124 = .ok (.addVxVy 1 2) ∧
    decodeWord 0x0000 = .error .family0 := by decide

/-- At both ends of the fetch window. -/
theorem witness_StepRunsTheDecodedInstruction :
    (let s := bytes 0x200 [0x81, 0x24] quiet
     s.run = .running ∧ s.nextInput.quit = false ∧ 0x200 ≤ s.pc.toNat ∧ s.pc.toNat + 2 < 0xFFE ∧
      decode [s.byteAt s.pc.toNat, s.byteAt (s.pc.toNat + 1)] = .ok (.addVxVy 1 2, [])) ∧
    (let s := bytes 0xFFB [0x81, 0x24] { quiet with pc := 0xFFB }
     s.run = .running ∧ s.nextInput.quit = false ∧ 0x200 ≤ s.pc.toNat ∧ s.pc.toNat + 2 < 0xFFE ∧
      decode [s.byteAt s.pc.toNat, s.byteAt (s.pc.toNat + 1)] = .ok (.addVxVy 1 2, [])) := by decide

/-- A word that decodes at the low end of the window, and one that does not at the high end. -/
theorem witness_FetchedOpcodeIsBigEndian :
    (let s := bytes 0x200 [0x12, 0x34] quiet
     0x200 ≤ s.pc.toNat ∧ s.pc.toNat + 2 < 0xFFE ∧
      (0x1234 : Word).toNat = (s.byteAt s.pc.toNat).toNat * 256 + (s.byteAt (s.pc.toNat + 1)).toNat ∧
      decodeWord 0x1234 = .ok (.jp 0x234)) ∧
    (let s := bytes 0xFFB [0x81, 0x28] { quiet with pc := 0xFFB }
     0x200 ≤ s.pc.toNat ∧ s.pc.toNat + 2 < 0xFFE ∧
      (0x8128 : Word).toNat = (s.byteAt s.pc.toNat).toNat * 256 + (s.byteAt (s.pc.toNat + 1)).toNat ∧
      decodeWord 0x8128 = .error .family8) := by decide

theorem witness_UnrecognizedOpcodeIsALoggedNoOp :
    (let s := bytes 0x200 [0x81, 0x28] quiet
     s.run = .running ∧ s.nextInput.quit = false ∧ 0x200 ≤ s.pc.toNat ∧ s.pc.toNat + 2 < 0xFFE ∧
      (0x8128 : Word).toNat = (s.byteAt s.pc.toNat).toNat * 256 + (s.byteAt (s.pc.toNat + 1)).toNat ∧
      decodeWord 0x8128 = .error .family8) ∧
    (let s := { quiet with pc := 0xFFB }
     s.run = .running ∧ s.nextInput.quit = false ∧ 0x200 ≤ s.pc.toNat ∧ s.pc.toNat + 2 < 0xFFE ∧
      (0x0000 : Word).toNat = (s.byteAt s.pc.toNat).toNat * 256 + (s.byteAt (s.pc.toNat + 1)).toNat ∧
      decodeWord 0x0000 = .error .family0) := by decide

theorem witness_FetchOutsideTheWindowFaults :
    (let s := { quiet with pc := 0x1FF }
     s.run = .running ∧ s.nextInput.quit = false ∧ s.pc.toNat < 0x200) ∧
    (let s := { quiet with pc := 0xFFC }
     s.run = .running ∧ s.nextInput.quit = false ∧ 0xFFB < s.pc.toNat) := by decide

theorem witness_QuitEndsTheRunAtOnce :
    (∃ s : State, s.run = .running ∧ s.Enabled ∧ s.nextInput.quit = true) ∧
    ∃ s : State, s.run = .waitingForKey 0 ∧ s.Enabled ∧ s.nextInput.quit = true :=
  ⟨⟨State.reset.withInputs [{ Input.quiet with quit := true }], rfl, .inl rfl, rfl⟩,
   ⟨{ State.reset with run := .waitingForKey 0 }.withInputs [{ Input.quiet with quit := true }], rfl,
    .inr ⟨0, rfl⟩, rfl⟩⟩

theorem witness_StepStopsExactlyInTheTerminalStates :
    (∃ s : State, s.run = .ended) ∧ (∃ s : State, ∃ f, s.run = .faulted f) ∧ quiet.Enabled ∧ (waiting 3 none).Enabled :=
  ⟨⟨{ quiet with run := .ended }, rfl⟩, ⟨{ quiet with run := .faulted (.stackUnderflow 0x200) }, _, rfl⟩, .inl rfl,
   .inr ⟨3, rfl⟩⟩

/-- A running state with no report, and a waiting one in which a report comes over an earlier one. -/
theorem witness_PollReplacesKeysAndLatchesRelease :
    (quiet.nextInput.quit = false ∧ step quiet = .next (nextOf (step quiet) quiet) ∧
      quiet.nextInput.release = none) ∧
    (let s := { waiting 3 (some 0xC) with released := some 0x2 }
     s.nextInput.quit = false ∧ step s = .next (nextOf (step s) s) ∧ s.nextInput.release = some 0xC) :=
  ⟨⟨rfl, rfl, rfl⟩, ⟨rfl, rfl, rfl⟩⟩

theorem witness_WaitStepTakesTheRelease :
    ((waiting 3 (some 0xC)).run = .waitingForKey 3 ∧ (waiting 3 (some 0xC)).nextInput.quit = false ∧
      (waiting 3 (some 0xC)).polled.released = some 0xC) ∧
    ((waiting 0xF none).run = .waitingForKey 0xF ∧ (waiting 0xF none).nextInput.quit = false ∧
      (waiting 0xF none).polled.released = none) := by decide

/-- A tick and no tick under both schedules, after an instruction and after a wait. -/
theorem witness_FrameTickComesAfterStepTwo :
    (∃ s u, AfterStepTwo s u ∧ ¬ u.Faulted ∧ TickDue s u ∧ u.cfg.schedule = .virtualClock 10) ∧
    (∃ s u, AfterStepTwo s u ∧ ¬ u.Faulted ∧ ¬ TickDue s u ∧ u.cfg.schedule = .virtualClock 10) ∧
    (∃ s u, AfterStepTwo s u ∧ ¬ u.Faulted ∧ TickDue s u ∧ u.cfg.schedule = .hostClock) ∧
    (∃ s u, AfterStepTwo s u ∧ ¬ u.Faulted ∧ ¬ TickDue s u ∧ u.cfg.schedule = .hostClock) ∧
    ∃ s u, AfterStepTwo s u ∧ ¬ u.Faulted ∧ s.run = .waitingForKey 3 :=
  ⟨⟨{ quiet with frameAcc := 9 }, afterTwo { quiet with frameAcc := 9 }, ⟨rfl, .inl ⟨rfl, rfl⟩⟩,
      not_faulted_of_running rfl, (by decide : 10 ≤ 9 + 1), rfl⟩,
   ⟨{ quiet with frameAcc := 8 }, afterTwo { quiet with frameAcc := 8 }, ⟨rfl, .inl ⟨rfl, rfl⟩⟩,
      not_faulted_of_running rfl, (by decide : ¬ 10 ≤ 8 + 1), rfl⟩,
   ⟨hostClock true, afterTwo (hostClock true), ⟨rfl, .inl ⟨rfl, rfl⟩⟩, not_faulted_of_running rfl, rfl, rfl⟩,
   ⟨hostClock false, afterTwo (hostClock false), ⟨rfl, .inl ⟨rfl, rfl⟩⟩, not_faulted_of_running rfl,
      (by decide : ¬ false = true), rfl⟩,
   ⟨waiting 3 none, (waiting 3 none).polled.waitStep 3, ⟨rfl, .inr ⟨3, rfl, rfl⟩⟩,
      not_faulted_of_waiting (x := 3) rfl, rfl⟩⟩

theorem witness_AudioFollowsTheSoundTimer : ∃ s u, AfterStepTwo s u ∧ ¬ u.Faulted ∧ u.ST = 1 :=
  ⟨{ quiet with ST := 1 }, afterTwo { quiet with ST := 1 }, ⟨rfl, .inl ⟨rfl, rfl⟩⟩, not_faulted_of_running rfl, rfl⟩

/-- G12: a fault in an iteration whose tick would be due. -/
theorem witness_FaultEndsTheIteration :
    ∃ s u, AfterStepTwo s u ∧ u.run = .faulted (.stackUnderflow 0x200) ∧ s.frameAcc = 9 :=
  ⟨bytes 0x200 [0x00, 0xEE] { quiet with frameAcc := 9 },
   afterTwo (bytes 0x200 [0x00, 0xEE] { quiet with frameAcc := 9 }), ⟨rfl, .inl ⟨rfl, rfl⟩⟩, rfl, rfl⟩

/-- The state of the execution of `i` in `s`. -/
def ran (i : Instr) (s : State) : State := nextOf (exec i s) s

/-- Every fault that the statement lists. -/
theorem witness_InstructionFaultsArePreciseAndListed :
    ¬ quiet.Faulted ∧
    (exec .ret quiet = .next (ran .ret quiet) ∧ (ran .ret quiet).run = .faulted (.stackUnderflow quiet.ia)) ∧
    (let s := { quiet with sp := 8 }
     exec (.call 0x300) s = .next (ran (.call 0x300) s) ∧ (ran (.call 0x300) s).run = .faulted (.stackOverflow s.ia)) ∧
    (let s := regs [(2, 0x10)] quiet
     exec (.skpVx 2) s = .next (ran (.skpVx 2) s) ∧ (ran (.skpVx 2) s).run = .faulted (.invalidKey s.ia 0x10)) ∧
    (let s := { quiet with I := 0xFFF }
     exec (.drwVxVyN 0 1 1) s = .next (ran (.drwVxVyN 0 1 1) s) ∧
      (ran (.drwVxVyN 0 1 1) s).run = .faulted (.inaccessibleDataAddress s.ia 0xFFF)) ∧
    (let s := { quiet with I := 0xFFF }
     exec (.ldVxMem 0) s = .next (ran (.ldVxMem 0) s) ∧
      (ran (.ldVxMem 0) s).run = .faulted (.inaccessibleDataAddress s.ia 0xFFF)) ∧
    (let s := { quiet with I := 0xFFF }
     exec (.ldMemVx 0) s = .next (ran (.ldMemVx 0) s) ∧
      (ran (.ldMemVx 0) s).run = .faulted (.inaccessibleDataAddress s.ia 0xFFF)) ∧
    (let s := { quiet with I := 0x1FF }
     exec (.ldBVx 0) s = .next (ran (.ldBVx 0) s) ∧ (ran (.ldBVx 0) s).run = .faulted (.fontRegionWrite s.ia 0x1FF)) :=
  ⟨not_faulted_of_running rfl, ⟨rfl, rfl⟩, ⟨rfl, rfl⟩, ⟨rfl, rfl⟩, ⟨rfl, rfl⟩, ⟨rfl, rfl⟩, ⟨rfl, rfl⟩, ⟨rfl, rfl⟩⟩

/-- The machine that initialisation makes, written out. -/
def memoryOf (c : Config) (image : List Byte) : State :=
  { State.reset with cfg := c, mem := Memory.ofImage c.resetByte Params.progBase image }

/-- No image and an image, under both schedules. -/
theorem witness_ResetMeetsTheInvariant :
    (Params.defaultConfig.scheduleOk = true ∧
      State.init Params.defaultConfig [] = some (memoryOf Params.defaultConfig [])) ∧
    (hostClock true).cfg.scheduleOk = true ∧
      State.init (hostClock true).cfg [0x12, 0x00] = some (memoryOf (hostClock true).cfg [0x12, 0x00]) :=
  ⟨⟨rfl, rfl⟩, ⟨rfl, rfl⟩⟩

/-- The reset state meets the invariant whatever its script of inputs. -/
theorem quiet_inv : quiet.Inv where
  memWf := ⟨List.Pairwise.nil, fun _ h => nomatch h⟩
  fontIntact := fun _ h => nomatch h
  frameAccBound := (by decide : 0 < 10)
  audioFollows := rfl
  diagIff := fun _ => ⟨(nomatch ·), (nomatch ·)⟩

theorem witness_EveryStepKeepsTheInvariant : quiet.Inv ∧ step quiet = .next (nextOf (step quiet) quiet) :=
  ⟨quiet_inv, rfl⟩

theorem witness_FontRegionIsNeverMutated :
    step quiet = .next (nextOf (step quiet) quiet) ∧ 0x1FF < 0x200 := ⟨rfl, by decide⟩

/-- An instruction that is no call and no return, and a call, with slots below and above the one it writes. -/
theorem witness_OnlyCallAndReturnTouchTheStack :
    (exec .cls quiet = .next (ran .cls quiet) ∧ (∀ nnn, Instr.cls ≠ .call nnn) ∧ Instr.cls ≠ .ret) ∧
    (let s := { quiet with sp := 3 }
     exec (.call 0x300) s = .next (ran (.call 0x300) s) ∧ (2 : Fin 8).val ≠ s.sp.val ∧ (4 : Fin 8).val ≠ s.sp.val) :=
  ⟨⟨rfl, fun _ => (nomatch ·), (nomatch ·)⟩, ⟨rfl, by decide, by decide⟩⟩

theorem witness_OnlyTheirOwnInstructionsWriteMemoryFramebufferAndI :
    exec (.jp 0x300) quiet = .next (ran (.jp 0x300) quiet) ∧
    (∀ x, Instr.jp 0x300 ≠ .ldBVx x ∧ Instr.jp 0x300 ≠ .ldMemVx x) ∧
    (Instr.jp 0x300 ≠ .cls ∧ ∀ x y n, Instr.jp 0x300 ≠ .drwVxVyN x y n) ∧
    ∀ nnn x, Instr.jp 0x300 ≠ .ldINnn nnn ∧ Instr.jp 0x300 ≠ .addIVx x ∧ Instr.jp 0x300 ≠ .ldFVx x :=
  ⟨rfl, fun _ => ⟨(nomatch ·), (nomatch ·)⟩, ⟨(nomatch ·), fun _ _ _ => (nomatch ·)⟩,
    fun _ _ => ⟨(nomatch ·), (nomatch ·), (nomatch ·)⟩⟩

theorem witness_OnlyTheirOwnInstructionsWriteTheTimers :
    exec .cls quiet = .next (ran .cls quiet) ∧ (∀ x, Instr.cls ≠ .ldDTVx x) ∧ ∀ x, Instr.cls ≠ .ldSTVx x :=
  ⟨rfl, fun _ => (nomatch ·), fun _ => (nomatch ·)⟩

theorem witness_VFIsWrittenOnlyAsFlagOrNamedDestination :
    (let s := regs [(1, 0xFF), (2, 1)] quiet
     exec (.addVxVy 1 2) s = .next (ran (.addVxVy 1 2) s) ∧ (ran (.addVxVy 1 2) s).getV 0xF ≠ s.getV 0xF) ∧
    (exec (.ldVxMem 0xF) (bytes 0x300 (List.replicate 16 7) { quiet with I := 0x300 }) =
        .next (ran (.ldVxMem 0xF) (bytes 0x300 (List.replicate 16 7) { quiet with I := 0x300 })) ∧
      (ran (.ldVxMem 0xF) (bytes 0x300 (List.replicate 16 7) { quiet with I := 0x300 })).getV 0xF ≠ 0) :=
  ⟨⟨rfl, by decide⟩, ⟨rfl, by decide⟩⟩

theorem witness_RunStateTransitions :
    (let s := bytes 0x200 [0xF3, 0x0A] quiet
     s.run = .running ∧ step s = .next (nextOf (step s) s) ∧ (nextOf (step s) s).run = .waitingForKey 3) ∧
    (let s := waiting 3 none
     s.run = .waitingForKey 3 ∧ step s = .next (nextOf (step s) s)) := ⟨⟨rfl, rfl, rfl⟩, ⟨rfl, rfl⟩⟩

theorem witness_NoInstructionReadsTheSoundTimer :
    (exec .cls quiet = .next (ran .cls quiet) ∧ ∀ x, Instr.cls ≠ .ldSTVx x) ∧
    (exec (.ldSTVx 1) quiet = .next (ran (.ldSTVx 1) quiet) ∧ ∃ x, Instr.ldSTVx 1 = .ldSTVx x) :=
  ⟨⟨rfl, fun _ => (nomatch ·)⟩, ⟨rfl, 1, rfl⟩⟩

/-- With an empty stack and with one free slot. -/
theorem witness_VacatedStackSlotsAreUnobservable :
    (quiet.sp.val ≤ (0 : Fin 8).val ∧ exec (.call 0x300) quiet = .next (ran (.call 0x300) quiet)) ∧
    (let s := { quiet with sp := 7 }
     s.sp.val ≤ (7 : Fin 8).val ∧ exec .ret s = .next (ran .ret s)) := ⟨⟨by decide, rfl⟩, ⟨by decide, rfl⟩⟩

theorem witness_InitialisationLoadsTheImage :
    (List.replicate 3215 (1 : Byte)).length ≤ 3215 ∧ 3214 < (List.replicate 3215 (1 : Byte)).length ∧
    3215 < (List.replicate 3216 (1 : Byte)).length ∧ (80 ≤ 0x1FF ∧ 0x1FF < 0x200) ∧ 79 < 80 ∧
    0x200 + (List.replicate 3215 (1 : Byte)).length ≤ 0xE8F := by
  rw [List.length_replicate, List.length_replicate]
  decide

theorem witness_FetchSeesStoredBytes :
    (0x200 ≤ quiet.pc.toNat ∧ quiet.pc.toNat + 2 < 0xFFE) ∧
    (let s := { quiet with pc := 0xFFB }
     0x200 ≤ s.pc.toNat ∧ s.pc.toNat + 2 < 0xFFE) := by decide

theorem witness_RetPopsTheReturnAddress :
    ({ quiet with sp := 1 } : State).sp.val = (0 : Fin 8).val + 1 ∧
    ({ quiet with sp := 8 } : State).sp.val = (7 : Fin 8).val + 1 := by decide

theorem witness_StackFaults : quiet.sp.val = 0 ∧ ({ quiet with sp := 8 } : State).sp.val = 8 := by decide

theorem witness_CallPushesTheReturnAddress :
    quiet.sp.val = (0 : Fin 8).val ∧ ({ quiet with sp := 7 } : State).sp.val = (7 : Fin 8).val := by decide

theorem witness_ReturnComesBackAfterTheCall :
    (quiet.sp.val < 8 ∧ exec (.call 0x300) quiet = .next (ran (.call 0x300) quiet) ∧
      (0 : Fin 8).val = quiet.sp.val ∧ (1 : Fin 8).val ≠ quiet.sp.val) ∧
    (let s := { quiet with sp := 7 }
     s.sp.val < 8 ∧ exec (.call 0x300) s = .next (ran (.call 0x300) s) ∧
      (7 : Fin 8).val = s.sp.val ∧ (6 : Fin 8).val ≠ s.sp.val) :=
  ⟨⟨by decide, rfl, by decide, by decide⟩, ⟨by decide, rfl, by decide, by decide⟩⟩

/-- Both outcomes of a skip on an immediate, and of a skip on two registers. -/
theorem witness_Skips : quiet.getV 3 = 0x00 ∧ quiet.getV 3 ≠ 0x01 ∧ quiet.getV 1 = quiet.getV 2 ∧
    (regs [(1, 7)] quiet).getV 1 ≠ (regs [(1, 7)] quiet).getV 2 := by decide

/-- Flag-setting instructions: a destination that is not VF, and one that is. -/
theorem witness_FlagDestinations : (1 : RegIx) ≠ 0xF ∧ (0xF : RegIx) = 0xF := by decide

/-- The sprite bytes are readable: five rows up to 0xFFE, and a box in the corner that is clipped on both sides. -/
theorem witness_DrawXorsTheClippedBox :
    (let s := regs [(0, 63), (1, 31)] { quiet with I := 0xFFA }
     (∀ r, r < (5 : BitVec 4).toNat → s.ea r ≠ 0xFFF) ∧ 0 < (5 : BitVec 4).toNat ∧
      (s.getV 0).toNat % 64 + 0 < 64 ∧ (s.getV 1).toNat % 32 + 0 < 32) ∧
    (∀ r c, r < (5 : BitVec 4).toNat → c < 8 →
      ¬ (0 = ((regs [(0, 63), (1, 31)] quiet).getV 0).toNat % 64 + c ∧
        0 = ((regs [(0, 63), (1, 31)] quiet).getV 1).toNat % 32 + r)) :=
  ⟨by decide, fun r c _ _ h => by
    have : 0 = 63 + c := h.1
    omega⟩

/-- D14: the colliding pixel is at column 63 of the box. -/
theorem witness_DrawSetsTheCollisionFlag :
    let s := regs [(0, 62)] (pixels [(63, 0)] (bytes 0x300 [0x01] { quiet with I := 0x300 }))
    (∀ r, r < (1 : BitVec 4).toNat → s.ea r ≠ 0xFFF) ∧ 0 < (1 : BitVec 4).toNat ∧ 1 < 8 ∧
      (s.getV 0).toNat % 64 + 1 < 64 ∧ (s.getV 1).toNat % 32 + 0 < 32 ∧
      s.FB.pixel ((s.getV 0).toNat % 64 + 1) ((s.getV 1).toNat % 32 + 0) = true ∧
      (s.byteAt (s.ea 0)).getLsbD (7 - 1) = decide (s.cfg.collision = .erased) := by decide

theorem witness_DrawingTwiceRestoresTheFramebuffer :
    let d : Instr := .drwVxVyN 0 1 5
    (0 : RegIx) ≠ 0xF ∧ (1 : RegIx) ≠ 0xF ∧ ¬ quiet.Faulted ∧ exec d quiet = .next (ran d quiet) ∧
      ¬ (ran d quiet).Faulted ∧ exec d (ran d quiet) = .next (ran d (ran d quiet)) :=
  ⟨by decide, by decide, not_faulted_of_running rfl, rfl, not_faulted_of_running rfl, rfl⟩

/-- The lowest and the highest key, one of them pressed. -/
theorem witness_SkipsOnAKey :
    let s := regs [(1, 0x0F)] { quiet with key := quiet.key.set 15 true }
    ((s.getV 0).toNat = (0x0 : Key).val ∧ s.key[(0x0 : Key)] ≠ true) ∧
      ((s.getV 1).toNat = (0xF : Key).val ∧ s.key[(0xF : Key)] = true) := by decide

theorem witness_SkipOnNoKeyFaults :
    (Instr.skpVx 2 = .skpVx 2 ∨ Instr.skpVx 2 = .sknpVx 2) ∧ 0xF < ((regs [(2, 0x10)] quiet).getV 2).toNat ∧
    (Instr.sknpVx 2 = .skpVx 2 ∨ Instr.sknpVx 2 = .sknpVx 2) ∧ 0xF < ((regs [(2, 0xFF)] quiet).getV 2).toNat := by decide

/-- The lowest and the highest addresses, and two that wrap into them. -/
theorem witness_BcdStoresTheDecimalDigits :
    (∀ k, k < 3 → 0x200 ≤ ({ quiet with I := 0x200 } : State).ea k ∧ ({ quiet with I := 0x200 } : State).ea k ≠ 0xFFF) ∧
    (∀ k, k < 3 → 0x200 ≤ ({ quiet with I := 0xFFC } : State).ea k ∧ ({ quiet with I := 0xFFC } : State).ea k ≠ 0xFFF) ∧
    (∀ k, k < 3 → 0x200 ≤ ({ quiet with I := 0x1300 } : State).ea k ∧
      ({ quiet with I := 0x1300 } : State).ea k ≠ 0xFFF) := by decide

theorem witness_StoreRegistersToMemory :
    (∀ k, k ≤ (0x0 : RegIx).val → 0x200 ≤ ({ quiet with I := 0xFFE } : State).ea k ∧
      ({ quiet with I := 0xFFE } : State).ea k ≠ 0xFFF) ∧
    (∀ k, k ≤ (0xF : RegIx).val → 0x200 ≤ ({ quiet with I := 0x200 } : State).ea k ∧
      ({ quiet with I := 0x200 } : State).ea k ≠ 0xFFF) := by decide

theorem witness_LoadRegistersFromMemory :
    (∀ k, k ≤ (0x0 : RegIx).val → ({ quiet with I := 0xFFE } : State).ea k ≠ 0xFFF) ∧
    (∀ k, k ≤ (0xF : RegIx).val → quiet.ea k ≠ 0xFFF) ∧ (0x0 : RegIx) < 0x1 := by decide

/-- A bad address at the start and after good ones, of either kind, for both instructions. -/
theorem witness_StoresFaultAtTheFirstBadAddress :
    (let s := { quiet with I := 0xFFD }
     (Instr.ldBVx 6 = .ldBVx 6 ∧ 3 = 3) ∧ 2 < 3 ∧ (∀ j, j < 2 → 0x200 ≤ s.ea j ∧ s.ea j ≠ 0xFFF) ∧ s.ea 2 = 0xFFF) ∧
    (let s := { quiet with I := 0x1FF }
     (Instr.ldBVx 6 = .ldBVx 6 ∧ 3 = 3) ∧ 0 < 3 ∧ (∀ j, j < 0 → 0x200 ≤ s.ea j ∧ s.ea j ≠ 0xFFF) ∧ s.ea 0 < 0x200) ∧
    (let s := { quiet with I := 0xFFD }
     (Instr.ldMemVx 2 = .ldMemVx 2 ∧ 3 = (2 : RegIx).val + 1) ∧ 2 < 3 ∧
      (∀ j, j < 2 → 0x200 ≤ s.ea j ∧ s.ea j ≠ 0xFFF) ∧ s.ea 2 = 0xFFF) ∧
    ((Instr.ldMemVx 0 = .ldMemVx 0 ∧ 1 = (0 : RegIx).val + 1) ∧ 0 < 1 ∧
      (∀ j, j < 0 → 0x200 ≤ quiet.ea j ∧ quiet.ea j ≠ 0xFFF) ∧ quiet.ea 0 < 0x200) := by decide

/-- F22 and D8. -/
theorem witness_LoadsAndDrawsFaultAtTheMissingByte :
    (∃ x : RegIx, Instr.ldVxMem 2 = .ldVxMem x ∧ 3 = x.val + 1) ∧ 2 < 3 ∧ ({ quiet with I := 0xFFD } : State).ea 2 = 0xFFF ∧
    (∃ x y m, Instr.drwVxVyN 0 1 2 = .drwVxVyN x y m ∧ 2 = m.toNat) ∧ 1 < 2 ∧
      ({ quiet with I := 0xFFE } : State).ea 1 = 0xFFF :=
  ⟨⟨2, rfl, rfl⟩, by decide, by decide, ⟨0, 1, 2, rfl, rfl⟩, by decide, by decide⟩

end Sys2Proof.Tests
end

section
/-! PROOF. The invariant of a run: initialisation meets it and every step keeps it (O18, O19, O29), and the audio value follows
the sound timer (O14). Step 2 leaves a state that meets the invariant once step 4 has handed over the audio value, or a
faulted one that meets it as it stands. -/

namespace Sys2Proof.Machine

/-! ### What `run` says -/

theorem State.not_faulted_of_run_eq_running {s : State} (h : s.run = .running) : ¬ s.Faulted := by
  rintro ⟨f, hf⟩
  simp [h] at hf

theorem State.not_faulted_of_run_eq_waiting {s : State} {x : RegIx} (h : s.run = .waitingForKey x) : ¬ s.Faulted := by
  rintro ⟨f, hf⟩
  simp [h] at hf

theorem State.faulted_withFault (s : State) (f : FatalFault) : (s.withFault f).Faulted := ⟨f, rfl⟩

/-- A run that is not faulted has no diagnostic to agree with. -/
theorem State.diagIff_of_not_faulted {t : State} (hr : ¬ t.Faulted) (hd : t.out.diag = none) (f : FatalFault) :
    t.run = .faulted f ↔ t.out.diag = some f := by
  rw [hd]
  exact ⟨fun h => absurd ⟨f, h⟩ hr, nofun⟩

theorem State.Inv.diag_eq_none {s : State} (h : s.Inv) (hr : ¬ s.Faulted) : s.out.diag = none :=
  Option.eq_none_iff_forall_ne_some.2 fun f hf => hr ⟨f, (h.diagIff f).2 hf⟩

/-! ### The invariant of a changed state -/

/-- A change that leaves memory, the parameters and the accumulator alone keeps the invariant if the audio value and the
diagnostic are right. -/
theorem State.Inv.of_fields {s t : State} (h : s.Inv) (mem : t.mem = s.mem) (cfg : t.cfg = s.cfg)
    (frameAcc : t.frameAcc = s.frameAcc) (audio : t.audioOn = (t.ST != 0))
    (diag : ∀ f, t.run = .faulted f ↔ t.out.diag = some f) : t.Inv where
  memWf := by rw [mem, cfg]; exact h.memWf
  fontIntact := by rw [mem]; exact h.fontIntact
  frameAccBound := by rw [cfg, frameAcc]; exact h.frameAccBound
  audioFollows := audio
  diagIff := diag

theorem State.Inv.withFault {s : State} (h : s.Inv) (f : FatalFault) : (s.withFault f).Inv :=
  h.of_fields rfl rfl rfl h.audioFollows fun g => by simp

theorem State.Inv.advance {s : State} (h : s.Inv) : s.advance.Inv :=
  h.of_fields rfl rfl rfl h.audioFollows h.diagIff

theorem State.Inv.polled {s : State} (h : s.Inv) (hr : ¬ s.Faulted) : s.polled.Inv :=
  h.of_fields rfl rfl rfl h.audioFollows (State.diagIff_of_not_faulted (t := s.polled) hr rfl)

theorem State.Inv.quit {s : State} (h : s.Inv) : s.beginIteration.quit.Inv :=
  h.of_fields rfl rfl rfl h.audioFollows fun f => by simp [Output.none]

theorem State.Inv.audioStep {s : State} (h : s.Inv) : s.audioStep.Inv :=
  h.of_fields rfl rfl rfl rfl h.diagIff

/-- The frame tick resets the accumulator, and 0 is below a bound that something is below. -/
theorem State.Inv.tick {s : State} (h : s.audioStep.Inv) : s.tick.audioStep.Inv where
  memWf := h.memWf
  fontIntact := h.fontIntact
  frameAccBound := by
    have hb := h.frameAccBound
    rw [State.audioStep_cfg, State.audioStep_frameAcc] at hb ⊢
    rw [State.tick_cfg, State.tick_frameAcc]
    cases hs : s.cfg.schedule with
    | hostClock => rfl
    | virtualClock n =>
      rw [hs] at hb
      exact Nat.zero_lt_of_lt hb
  audioFollows := rfl
  diagIff := h.diagIff

/-- Step 3 keeps the invariant of the state that step 4 makes: it resets the accumulator or counts below FRAME_ITER. -/
theorem State.Inv.frameStep {s : State} (h : s.audioStep.Inv) (due : Bool) : (s.frameStep due).audioStep.Inv := by
  rcases s.frameStep_cases due with e | ⟨_, e⟩ | ⟨n, hs, hn, e⟩
  · rw [e]
    exact State.Inv.tick h
  · rw [e]
    exact h
  · rw [e]
    exact
      { memWf := h.memWf
        fontIntact := h.fontIntact
        frameAccBound := by simpa [hs] using hn
        audioFollows := rfl
        diagIff := h.diagIff }

/-! ### Initialisation -/

/-- An accepted initialisation lists no cell below the entry point and starts with the accumulator and the timers at 0. -/
theorem State.inv_of_init {c : Config} {image : List Byte} {s : State} (hc : c.scheduleOk = true)
    (h : State.init c image = some s) : s.Inv := by
  have hwf := (State.init_mem h).1
  obtain ⟨_, rfl⟩ := State.init_cases h
  exact
    { memWf := hwf
      fontIntact := fun cell hcell => (Memory.ofImage_cell cell hcell).1
      frameAccBound := by
        dsimp only [State.reset]
        cases hs : c.schedule with
        | hostClock => rfl
        | virtualClock n => simpa [Config.scheduleOk, hs] using hc
      audioFollows := rfl
      diagIff := State.diagIff_of_not_faulted (State.not_faulted_of_run_eq_running rfl) rfl }

/-- With the default parameters and no image, initialisation makes the reset state. -/
theorem State.init_default_nil : State.init Params.defaultConfig [] = some State.reset := rfl

theorem clearFB_pixel (px py : Nat) : Framebuffer.pixel clearFB px py = false := by
  unfold Framebuffer.pixel
  split
  · simp [clearFB]
  · rfl

/-! ### Step 2 -/

/-- An instruction that takes no fault keeps the invariant, up to the audio value, which step 4 hands over. -/
theorem ExecKeeps.inv_audioStep {i : Instr} {s t : State} (k : ExecKeeps i s t) (h : s.Inv) (hr : s.run = .running) :
    ¬ t.Faulted ∧ t.audioStep.Inv := by
  have ht : ¬ t.Faulted := by
    rcases k.run with e | ⟨x, _, e⟩
    · exact State.not_faulted_of_run_eq_running (e.trans hr)
    · exact State.not_faulted_of_run_eq_waiting e
  have hd : t.out.diag = none := by rw [k.out, h.diag_eq_none (State.not_faulted_of_run_eq_running hr)]
  exact ⟨ht,
    { memWf := by rw [State.audioStep_mem, State.audioStep_cfg, k.cfg]; exact k.wf h.memWf
      fontIntact := fun c hc => (k.cells c hc).elim (h.fontIntact c) And.left
      frameAccBound := by
        rw [State.audioStep_cfg, State.audioStep_frameAcc, k.cfg, k.frameAcc]
        exact h.frameAccBound
      audioFollows := rfl
      diagIff := State.diagIff_of_not_faulted (t := t.audioStep) ht hd }⟩

/-- Fetch and execute leave a faulted state that meets the invariant, or one that meets it once step 4 has run. -/
theorem executeNext_inv {s u : State} (h : s.Inv) (hr : s.run = .running) (he : executeNext s = .next u) :
    (u.Faulted ∧ u.Inv) ∨ (¬ u.Faulted ∧ u.audioStep.Inv) := by
  rcases executeNext_cases he with ⟨f, _, rfl⟩ | ⟨i, _, hi⟩ | ⟨op, _, rfl⟩
  · exact .inl ⟨s.faulted_withFault f, h.withFault f⟩
  · rcases exec_cases hi with ⟨f, rfl⟩ | k
    · exact .inl ⟨s.advance.faulted_withFault f, h.advance.withFault f⟩
    · exact .inr (k.inv_audioStep h.advance hr)
  · exact .inr ⟨State.not_faulted_of_run_eq_running (s := s.advance.logUnrecognized op) hr,
      h.of_fields rfl rfl rfl rfl h.diagIff⟩

/-- The wait step is no fault, and keeps the invariant up to the audio value. -/
theorem State.Inv.waitStep {s : State} {x : RegIx} (h : s.Inv) (hr : s.run = .waitingForKey x) :
    ¬ (s.waitStep x).Faulted ∧ (s.waitStep x).audioStep.Inv := by
  have hs : ¬ s.Faulted := State.not_faulted_of_run_eq_waiting hr
  rcases s.waitStep_cases x with ⟨k, _, e⟩ | ⟨_, e⟩
  · rw [e]
    exact ⟨State.not_faulted_of_run_eq_running rfl, h.of_fields rfl rfl rfl rfl
      (State.diagIff_of_not_faulted (State.not_faulted_of_run_eq_running rfl) (h.diag_eq_none hs))⟩
  · rw [e]
    exact ⟨hs, h.audioStep⟩

/-- Step 2 of an iteration leaves a faulted state that meets the invariant, or one that meets it once step 4 has run. -/
theorem AfterStepTwo.inv {s u : State} (hs : s.Inv) (h : AfterStepTwo s u) :
    (u.Faulted ∧ u.Inv) ∨ (¬ u.Faulted ∧ u.audioStep.Inv) := by
  obtain ⟨_, ⟨hr, he⟩ | ⟨x, hr, rfl⟩⟩ := h
  · exact executeNext_inv (hs.polled (State.not_faulted_of_run_eq_running hr)) hr he
  · exact .inr ((hs.polled (State.not_faulted_of_run_eq_waiting hr)).waitStep hr)

end Sys2Proof.Machine

namespace Sys2Proof.Proofs

open Sys2Proof.Machine

/-- Settles O19: a quit touches nothing the invariant speaks of, a faulted step 2 is the whole iteration, and after any
other step 2 the frame step keeps the accumulator's bound and the audio step makes the audio value right. -/
theorem everyStepKeepsTheInvariant : Obligations.EveryStepKeepsTheInvariant := by
  intro s t hs h
  rcases step_cases h with ⟨_, _, rfl⟩ | ⟨u, hu, rfl⟩
  · exact hs.quit
  · rcases hu.inv hs with ⟨hf, hi⟩ | ⟨hf, hi⟩
    · rw [State.finishIteration_of_faulted _ hf]
      exact hi
    · rw [State.finishIteration_of_not_faulted _ hf]
      exact State.Inv.frameStep hi _

/-- Settles O14: an iteration whose step 2 took no fault ends with the audio step, which hands over and keeps whether `ST`
is 0. -/
theorem audioFollowsTheSoundTimer : Obligations.AudioFollowsTheSoundTimer := by
  intro s u hu hf
  refine ⟨_, step_of_afterStepTwo hu, ?_⟩
  rw [State.finishIteration_of_not_faulted _ hf]
  simp

/-- Settles O18: the image stands from the entry point on, so above the font region, and a FRAME_ITER of at least 1 is above
the accumulator's 0. `State.reset` is the initialisation with the default parameters and no image. -/
theorem resetMeetsTheInvariant : Obligations.ResetMeetsTheInvariant :=
  ⟨fun _ _ _ hc h => State.inv_of_init hc h, State.inv_of_init (by decide) State.init_default_nil⟩

/-- Settles O29: each register by its value in `State.reset`, the pixels by those of the cleared framebuffer. -/
theorem resetValues : Obligations.ResetValues := by
  refine ⟨State.init_default_nil, by decide, rfl, rfl, rfl, rfl, rfl, ?_, by decide, rfl, rfl, rfl, rfl, by decide⟩
  exact fun px py => clearFB_pixel px py

end Sys2Proof.Proofs
end

section
/-! PROOF. What each instruction may write. `writtenParts` lists the parts of the state and `writtenRegs` the general
registers that an instruction writes when it takes no fault; `exec_changesOnly` says that nothing else changes but `run`
and the diagnostic. Who writes the stack, memory, the framebuffer, I, the timers and VF (O21 to O24) is read off these
lists. -/

namespace Sys2Proof.Machine

/-! ### Frames of the operations -/

/-- A frame over fewer parts says more. -/
theorem Frame.mono {ps qs : List Part} {s t : State} (h : Frame ps s t) (hsub : ps ⊆ qs) : Frame qs s t :=
  fun p hp => h p fun hmem => hp (hsub hmem)

theorem frame_setV (s : State) (x : RegIx) (b : Byte) : Frame [.V] s (s.setV x b) := by
  intro p hp
  cases p <;> simp_all [Unchanged, State.byteAt]

theorem frame_setResultAndFlag (s : State) (x : RegIx) (b : Byte) (c : Bool) :
    Frame [.V] s (s.setResultAndFlag x b c) := by
  intro p hp
  cases p <;> simp_all [Unchanged, State.byteAt]

theorem frame_loadRegs (s : State) (x : RegIx) : Frame [.V] s (s.loadRegs x) := by
  intro p hp
  cases p <;> simp_all [Unchanged, State.byteAt]

theorem frame_setPc (s : State) (w : Word) : Frame [.pc] s (s.setPc w) := by
  intro p hp
  cases p <;> simp_all [Unchanged, State.byteAt, State.getV_eq]

theorem frame_skipIf (s : State) (c : Bool) : Frame [.pc] s (s.skipIf c) := by
  cases c with
  | false => exact Frame.refl _ s
  | true => exact frame_setPc s _

theorem frame_setI (s : State) (w : Word) : Frame [.I] s (s.setI w) := by
  intro p hp
  cases p <;> simp_all [Unchanged, State.byteAt, State.getV_eq]

theorem frame_setDT (s : State) (b : Byte) : Frame [.DT] s (s.setDT b) := by
  intro p hp
  cases p <;> simp_all [Unchanged, State.byteAt, State.getV_eq]

theorem frame_setST (s : State) (b : Byte) : Frame [.ST] s (s.setST b) := by
  intro p hp
  cases p <;> simp_all [Unchanged, State.byteAt, State.getV_eq]

theorem frame_setFB (s : State) (f : Framebuffer) : Frame [.FB] s (s.setFB f) := by
  intro p hp
  cases p <;> simp_all [Unchanged, State.byteAt, State.getV_eq]

theorem frame_setReleased_setRun (s : State) (k : Option Key) (r : RunState) :
    Frame [.released, .run] s ((s.setReleased k).setRun r) := by
  intro p hp
  cases p <;> simp_all [Unchanged, State.byteAt, State.getV_eq]

theorem frame_setFB_setFlag (s : State) (f : Framebuffer) (c : Bool) :
    Frame [.FB, .V] s ((s.setFB f).setFlag c) := by
  intro p hp
  cases p <;> simp_all [Unchanged, State.byteAt]

theorem frame_storeData (s : State) (bs : List Byte) : Frame [.mem] s (s.storeData bs) := by
  intro p hp
  cases p <;> simp_all [Unchanged, State.getV_eq]

/-- What a return or a call changes. -/
theorem frame_stack (s : State) (n : Fin 9) (st : Vector Word 8) (w : Word) :
    Frame [.pc, .sp, .stack] s { s with sp := n, stack := st, pc := w } := by
  intro p hp
  cases p <;> simp_all [Unchanged, State.byteAt, State.getV_eq]

theorem frame_pop (s : State) (n : Fin 9) (w : Word) : Frame [.pc, .sp] s { s with pc := w, sp := n } := by
  intro p hp
  cases p <;> simp_all [Unchanged, State.byteAt, State.getV_eq]

/-! ### The parts and the registers that an instruction writes -/

/-- The parts that an instruction writes if it takes no fault (the operation of each row of 30_encoding.md R76). -/
def writtenParts : Instr → List Part
  | .cls => [.FB]
  | .ret => [.pc, .sp]
  | .call _ => [.pc, .sp, .stack]
  | .jp _ | .jpV0Nnn _ => [.pc]
  | .seVxKk _ _ | .sneVxKk _ _ | .seVxVy _ _ | .sneVxVy _ _ | .skpVx _ | .sknpVx _ => [.pc]
  | .ldVxKk _ _ | .addVxKk _ _ | .ldVxVy _ _ | .orVxVy _ _ | .andVxVy _ _ | .xorVxVy _ _ | .addVxVy _ _
  | .subVxVy _ _ | .shrVxVy _ _ | .subnVxVy _ _ | .shlVxVy _ _ | .rndVxKk _ _ | .ldVxDT _ | .ldVxMem _ => [.V]
  | .drwVxVyN _ _ _ => [.FB, .V]
  | .ldVxK _ => [.released, .run]
  | .ldDTVx _ => [.DT]
  | .ldSTVx _ => [.ST]
  | .ldINnn _ | .addIVx _ | .ldFVx _ => [.I]
  | .ldBVx _ | .ldMemVx _ => [.mem]

/-- The general registers that an instruction writes if it takes no fault: its destination, and VF as a flag. -/
def writtenRegs : Instr → List RegIx
  | .ldVxKk x _ | .addVxKk x _ | .rndVxKk x _ | .ldVxVy x _ | .orVxVy x _ | .andVxVy x _ | .xorVxVy x _
  | .ldVxDT x => [x]
  | .addVxVy x _ | .subVxVy x _ | .shrVxVy x _ | .subnVxVy x _ | .shlVxVy x _ => [x, vF]
  | .drwVxVyN _ _ _ => [vF]
  | .ldVxMem x => (List.finRange 16).filter (· ≤ x)
  | _ => []

/-- Nothing changes but the parts `ps`, and no general register but those of `rs`. -/
structure ChangesOnly (ps : List Part) (rs : List RegIx) (s t : State) : Prop where
  parts : Frame ps s t
  regs : RegFrame rs s t

/-- A change that leaves V alone writes no register. -/
theorem ChangesOnly.of_frame {ps : List Part} {rs : List RegIx} {s t : State} (h : Frame ps s t) (hV : .V ∉ ps) :
    ChangesOnly ps rs s t := ⟨h, fun r _ => h .V hV r⟩

theorem changesOnly_withFault (rs : List RegIx) (s : State) (f : FatalFault) :
    ChangesOnly [.run, .out] rs s (s.withFault f) := .of_frame (frame_withFault s f) (by decide)

theorem changesOnly_setV (s : State) (x : RegIx) (b : Byte) : ChangesOnly [.V] [x] s (s.setV x b) :=
  ⟨frame_setV s x b, fun _ hr => s.getV_setV_other b (List.ne_of_not_mem_cons hr)⟩

theorem changesOnly_setResultAndFlag (s : State) (x : RegIx) (b : Byte) (c : Bool) :
    ChangesOnly [.V] [x, vF] s (s.setResultAndFlag x b c) :=
  ⟨frame_setResultAndFlag s x b c, fun _ hr => s.getV_setResultAndFlag_other b c (List.ne_of_not_mem_cons hr)
    (List.ne_of_not_mem_cons (List.not_mem_of_not_mem_cons hr))⟩

theorem changesOnly_setFB_setFlag (s : State) (f : Framebuffer) (c : Bool) :
    ChangesOnly [.FB, .V] [vF] s ((s.setFB f).setFlag c) :=
  ⟨frame_setFB_setFlag s f c, fun _ hr => (s.setFB f).getV_setFlag_other c (List.ne_of_not_mem_cons hr)⟩

theorem changesOnly_loadRegs (s : State) (x : RegIx) :
    ChangesOnly [.V] ((List.finRange 16).filter (· ≤ x)) s (s.loadRegs x) := by
  refine ⟨frame_loadRegs s x, fun r hr => ?_⟩
  have hx : ¬ r ≤ x := by simpa using hr
  rw [State.getV_loadRegs, if_neg hx]

/-- A checked access takes the fault, or changes what the access changes. -/
theorem changesOnly_unlessFault {ps : List Part} {rs : List RegIx} {s t u : State} {check : Option FatalFault}
    (h : s.unlessFault check t = .next u) (ht : ChangesOnly ps rs s t) :
    (∃ f, u = s.withFault f) ∨ ChangesOnly ps rs s u := by
  rcases State.unlessFault_cases h with ⟨_, rfl⟩ | ⟨f, _, rfl⟩
  · exact .inr ht
  · exact .inl ⟨f, rfl⟩

/-- An instruction takes a fault, or changes only what it is listed to write. -/
theorem exec_writes {i : Instr} {s t : State} (h : exec i s = .next t) :
    (∃ f, t = s.withFault f) ∨ ChangesOnly (writtenParts i) (writtenRegs i) s t := by
  cases i with
  | cls => cases h; exact .inr (.of_frame (frame_setFB s _) (by simp [writtenParts]))
  | ret =>
    rcases State.popPc_cases h with ⟨_, rfl⟩ | ⟨_, rfl⟩
    · exact .inr (.of_frame (frame_pop s _ _) (by simp [writtenParts]))
    · exact .inl ⟨_, rfl⟩
  | call nnn =>
    rcases State.callTo_cases h with ⟨_, rfl⟩ | ⟨_, rfl⟩
    · exact .inr (.of_frame (frame_stack s _ _ _) (by simp [writtenParts]))
    · exact .inl ⟨_, rfl⟩
  | jp _ | jpV0Nnn _ => cases h; exact .inr (.of_frame (frame_setPc s _) (by simp [writtenParts]))
  | seVxKk _ _ | sneVxKk _ _ | seVxVy _ _ | sneVxVy _ _ =>
    cases h; exact .inr (.of_frame (frame_skipIf s _) (by simp [writtenParts]))
  | skpVx _ | sknpVx _ =>
    rcases State.skipIfKey_cases h with ⟨_, rfl⟩ | ⟨_, rfl⟩
    · exact .inr (.of_frame (frame_skipIf s _) (by simp [writtenParts]))
    · exact .inl ⟨_, rfl⟩
  | ldVxKk _ _ | addVxKk _ _ | rndVxKk _ _ | ldVxVy _ _ | orVxVy _ _ | andVxVy _ _ | xorVxVy _ _ | ldVxDT _ =>
    cases h; exact .inr (changesOnly_setV s _ _)
  | addVxVy _ _ | subVxVy _ _ | shrVxVy _ _ | subnVxVy _ _ | shlVxVy _ _ =>
    cases h; exact .inr (changesOnly_setResultAndFlag s _ _ _)
  | drwVxVyN x y n =>
    rw [exec_drwVxVyN] at h
    exact changesOnly_unlessFault h (changesOnly_setFB_setFlag s _ _)
  | ldVxK _ => cases h; exact .inr (.of_frame (frame_setReleased_setRun s _ _) (by simp [writtenParts]))
  | ldDTVx _ => cases h; exact .inr (.of_frame (frame_setDT s _) (by simp [writtenParts]))
  | ldSTVx _ => cases h; exact .inr (.of_frame (frame_setST s _) (by simp [writtenParts]))
  | ldINnn _ | addIVx _ | ldFVx _ => cases h; exact .inr (.of_frame (frame_setI s _) (by simp [writtenParts]))
  | ldBVx _ | ldMemVx _ => exact changesOnly_unlessFault h (.of_frame (frame_storeData s _) (by simp [writtenParts]))
  | ldVxMem x => exact changesOnly_unlessFault h (changesOnly_loadRegs s x)

/-- Whether it faults or not, an instruction changes only what it is listed to write, `run` and the diagnostic. -/
theorem exec_changesOnly {i : Instr} {s t : State} (h : exec i s = .next t) :
    ChangesOnly (.run :: .out :: writtenParts i) (writtenRegs i) s t := by
  rcases exec_writes h with ⟨f, rfl⟩ | ⟨hp, hr⟩
  · exact ⟨(frame_withFault s f).mono (by simp), (changesOnly_withFault _ s f).regs⟩
  · exact ⟨hp.mono (by simp), hr⟩

/-- A part that an instruction is not listed to write is the same after it. -/
theorem exec_unchanged {i : Instr} {s t : State} {p : Part} (h : exec i s = .next t) (hp : p ∉ writtenParts i)
    (hrun : p ≠ .run) (hout : p ≠ .out) : Unchanged p s t :=
  (exec_changesOnly h).parts p (by simp [hp, hrun, hout])

/-! ### Who writes a part -/

theorem sp_mem_writtenParts {i : Instr} : .sp ∈ writtenParts i ↔ i = .ret ∨ ∃ nnn, i = .call nnn := by
  cases i <;> simp [writtenParts]

theorem stack_mem_writtenParts {i : Instr} : .stack ∈ writtenParts i ↔ ∃ nnn, i = .call nnn := by
  cases i <;> simp [writtenParts]

theorem FB_mem_writtenParts {i : Instr} : .FB ∈ writtenParts i ↔ i = .cls ∨ ∃ x y n, i = .drwVxVyN x y n := by
  cases i <;> simp [writtenParts]

theorem I_mem_writtenParts {i : Instr} :
    .I ∈ writtenParts i ↔ (∃ nnn, i = .ldINnn nnn) ∨ ∃ x, i = .addIVx x ∨ i = .ldFVx x := by
  cases i <;> simp [writtenParts]

theorem DT_mem_writtenParts {i : Instr} : .DT ∈ writtenParts i ↔ ∃ x, i = .ldDTVx x := by
  cases i <;> simp [writtenParts]

theorem ST_mem_writtenParts {i : Instr} : .ST ∈ writtenParts i ↔ ∃ x, i = .ldSTVx x := by
  cases i <;> simp [writtenParts]

/-- The parts that an instruction changes at all. The key state, the accumulator, the audio value, the parameters and the
inputs are none of them. -/
theorem changedParts_subset (i : Instr) : .run :: .out :: writtenParts i ⊆
    [.V, .pc, .I, .sp, .stack, .DT, .ST, .mem, .FB, .released, .run, .out] := by
  cases i <;> simp [writtenParts]

/-- Of those parts, only the two store instructions change memory. -/
theorem changedParts_subset_of_not_store {i : Instr} (hi : ∀ x, i ≠ .ldBVx x ∧ i ≠ .ldMemVx x) :
    .run :: .out :: writtenParts i ⊆ [.V, .pc, .I, .sp, .stack, .DT, .ST, .FB, .released, .run, .out] := by
  cases i with
  | ldBVx x => exact absurd rfl (hi x).1
  | ldMemVx x => exact absurd rfl (hi x).2
  | _ => simp [writtenParts]

/-- The instructions that write VF: as a flag, or because they name it as a destination (10_state.md R22). -/
theorem vF_mem_writtenRegs {i : Instr} (h : vF ∈ writtenRegs i) :
    (∃ x y, i = .addVxVy x y ∨ i = .subVxVy x y ∨ i = .shrVxVy x y ∨ i = .subnVxVy x y ∨ i = .shlVxVy x y) ∨
    (∃ x y n, i = .drwVxVyN x y n) ∨
    (∃ kk, i = .ldVxKk vF kk ∨ i = .addVxKk vF kk ∨ i = .rndVxKk vF kk) ∨
    (∃ y, i = .ldVxVy vF y ∨ i = .orVxVy vF y ∨ i = .andVxVy vF y ∨ i = .xorVxVy vF y) ∨
    i = .ldVxDT vF ∨ i = .ldVxMem vF := by
  cases i with
  | ldVxMem x =>
    have hx : vF ≤ x := by simpa [writtenRegs] using h
    simp [show x = vF from le_antisymm (Fin.le_last x) hx]
  | _ => simp_all [writtenRegs]

end Sys2Proof.Machine

namespace Sys2Proof.Proofs

open Sys2Proof.Machine

/-- Settles O21: by what the instructions write; of a call, which writes the one element `sp`, by its two cases. -/
theorem onlyCallAndReturnTouchTheStack : Obligations.OnlyCallAndReturnTouchTheStack := by
  intro i s t h
  have hstack (hi : ∀ nnn, i ≠ .call nnn) : t.stack = s.stack :=
    exec_unchanged (p := .stack) h (by simpa [stack_mem_writtenParts] using hi) (by decide) (by decide)
  refine ⟨fun hi => ⟨hstack hi, fun hret => ?_⟩, fun j hj => ?_⟩
  · exact exec_unchanged (p := .sp) h (by simpa [sp_mem_writtenParts] using ⟨hret, hi⟩) (by decide) (by decide)
  · by_cases hi : ∃ nnn, i = .call nnn
    · obtain ⟨nnn, rfl⟩ := hi
      rcases State.callTo_cases h with ⟨hs, rfl⟩ | ⟨_, rfl⟩
      · exact Vector.getElem_set_ne hs j.isLt (Ne.symm hj)
      · rfl
    · rw [hstack (not_exists.1 hi)]

/-- Settles O22: by what the instructions write. -/
theorem onlyTheirOwnInstructionsWriteMemoryFramebufferAndI :
    Obligations.OnlyTheirOwnInstructionsWriteMemoryFramebufferAndI := by
  intro i s t h
  refine ⟨fun hi => ?_, fun hi => ?_, fun hi => ?_⟩
  · exact (exec_changesOnly h).parts.mono (changedParts_subset_of_not_store hi)
  · exact exec_unchanged (p := .FB) h (by simpa [FB_mem_writtenParts] using hi) (by decide) (by decide)
  · refine exec_unchanged (p := .I) h ?_ (by decide) (by decide)
    rw [I_mem_writtenParts]
    rintro (⟨nnn, e⟩ | ⟨x, e | e⟩)
    · exact (hi nnn 0).1 e
    · exact (hi 0 x).2.1 e
    · exact (hi 0 x).2.2 e

/-- Settles O23: by what the instructions write. -/
theorem onlyTheirOwnInstructionsWriteTheTimers : Obligations.OnlyTheirOwnInstructionsWriteTheTimers := by
  intro i s t h
  have hdt (hi : ∀ x, i ≠ .ldDTVx x) : t.DT = s.DT :=
    exec_unchanged (p := .DT) h (by simpa [DT_mem_writtenParts] using hi) (by decide) (by decide)
  have hst (hi : ∀ x, i ≠ .ldSTVx x) : t.ST = s.ST :=
    exec_unchanged (p := .ST) h (by simpa [ST_mem_writtenParts] using hi) (by decide) (by decide)
  have hnever := (exec_changesOnly h).parts.mono (changedParts_subset i)
  exact ⟨hdt, hst, hnever .key (by decide), hnever .frameAcc (by decide), hnever .audioOn (by decide),
    hnever .cfg (by decide), hnever .inputs (by decide), hnever .iter (by decide), hnever .rand (by decide)⟩

/-- Settles O24: a register that changes is one that the instruction is listed to write. -/
theorem vfIsWrittenOnlyAsFlagOrNamedDestination : Obligations.VFIsWrittenOnlyAsFlagOrNamedDestination := by
  intro i s t h hne
  refine vF_mem_writtenRegs (Classical.byContradiction fun hvF => hne ?_)
  exact (exec_changesOnly h).regs vF hvF

end Sys2Proof.Proofs
end

section
/-! PROOF. How a wait starts and ends (O25), and what no instruction reads: the sound timer (O26) and the stack slots above
`sp` (O27). An instruction that is no Fx18, no call and no return neither reads nor writes the sound timer and the stack, so
it commutes with a change of both; for those three, the operation's own cases say what happens. -/

namespace Sys2Proof.Machine

/-! ### The run state over a step -/

@[simp] theorem State.frameStep_run (s : State) (due : Bool) : (s.frameStep due).run = s.run := by
  rcases s.frameStep_cases due with e | ⟨_, e⟩ | ⟨n, _, _, e⟩ <;> rw [e]
  rfl

/-- Steps 3 and 4 leave the run state alone. -/
@[simp] theorem State.finishIteration_run (s : State) (due : Bool) : (s.finishIteration due).run = s.run := by
  by_cases h : s.Faulted
  · rw [State.finishIteration_of_faulted due h]
  · rw [State.finishIteration_of_not_faulted due h, State.audioStep_run, State.frameStep_run]

/-- Polling the inputs does not change what is fetched. -/
theorem State.fetched_polled (s : State) : s.polled.fetched = s.fetched := rfl

/-- From `Running`, step 2 leaves a wait only by an Fx0A. -/
theorem executeNext_waiting {s u : State} {x : RegIx} (hr : s.run = .running) (h : executeNext s = .next u)
    (hu : u.run = .waitingForKey x) : s.fetched = .instr (.ldVxK x) := by
  rcases executeNext_cases h with ⟨f, _, rfl⟩ | ⟨i, hf, hi⟩ | ⟨op, _, rfl⟩
  · simp at hu
  · rcases exec_cases hi with ⟨f, rfl⟩ | k
    · simp at hu
    · rcases k.run with e | ⟨y, rfl, e⟩
      · simp [e, hr] at hu
      · obtain rfl : y = x := by simpa [e] using hu
        exact hf
  · simp [hr] at hu

/-- The wait step goes on waiting for the same register, or the machine runs again. -/
theorem State.waitStep_run {s : State} {x : RegIx} (hr : s.run = .waitingForKey x) :
    (s.waitStep x).run = .waitingForKey x ∨ (s.waitStep x).run = .running := by
  rcases s.waitStep_cases x with ⟨k, _, e⟩ | ⟨_, e⟩
  · exact .inr (by rw [e, State.setRun_run])
  · exact .inl (by rw [e, hr])

/-! ### A change of the sound timer and the stack -/

/-- `s` with another sound timer and other stack slots. -/
def State.withSTAndStack (b : Byte) (st : Vector Word 8) (s : State) : State := { s with ST := b, stack := st }

theorem State.skipIf_withSTAndStack (b : Byte) (st : Vector Word 8) (s : State) (c : Bool) :
    (s.withSTAndStack b st).skipIf c = (s.skipIf c).withSTAndStack b st := by cases c <;> rfl

theorem State.storeAll_withSTAndStack (b : Byte) (st : Vector Word 8) (s : State) (cs : List (Nat × Byte)) :
    (s.withSTAndStack b st).storeAll cs = (s.storeAll cs).withSTAndStack b st := by
  induction cs generalizing s with
  | nil => rfl
  | cons c cs ih => exact ih (s.storeByte c.1 c.2)

theorem State.storeData_withSTAndStack (b : Byte) (st : Vector Word 8) (s : State) (bs : List Byte) :
    (s.withSTAndStack b st).storeData bs = (s.storeData bs).withSTAndStack b st :=
  s.storeAll_withSTAndStack b st _

theorem State.unlessFault_withSTAndStack (b : Byte) (st : Vector Word 8) (s t : State) (check : Option FatalFault) :
    (s.withSTAndStack b st).unlessFault check (t.withSTAndStack b st) =
      mapNext (State.withSTAndStack b st) (s.unlessFault check t) := by cases check <;> rfl

theorem State.skipIfKey_withSTAndStack (b : Byte) (st : Vector Word 8) (s : State) (v : Byte) (want : Bool) :
    (s.withSTAndStack b st).skipIfKey v want = mapNext (State.withSTAndStack b st) (s.skipIfKey v want) := by
  unfold State.skipIfKey
  cases keyOf v with
  | none => rfl
  | some k => exact congrArg Host.Outcome.next (s.skipIf_withSTAndStack b st _)

/-- An instruction other than Fx18, 2nnn and 00EE does the same whatever the sound timer and the stack hold, and leaves them
as they are. -/
theorem exec_withSTAndStack {i : Instr} (b : Byte) (st : Vector Word 8) (s : State) (hST : ∀ x, i ≠ .ldSTVx x)
    (hret : i ≠ .ret) (hcall : ∀ nnn, i ≠ .call nnn) :
    exec i (s.withSTAndStack b st) = mapNext (State.withSTAndStack b st) (exec i s) := by
  cases i with
  | ldSTVx x => exact absurd rfl (hST x)
  | ret => exact absurd rfl hret
  | call nnn => exact absurd rfl (hcall nnn)
  | seVxKk _ _ | sneVxKk _ _ | seVxVy _ _ | sneVxVy _ _ =>
    exact congrArg Host.Outcome.next (s.skipIf_withSTAndStack b st _)
  | skpVx _ | sknpVx _ => exact s.skipIfKey_withSTAndStack b st _ _
  | drwVxVyN _ _ _ =>
    rw [exec_drwVxVyN, exec_drwVxVyN, ← State.unlessFault_withSTAndStack]
    rfl
  | ldVxMem _ =>
    rw [exec_ldVxMem, exec_ldVxMem, ← State.unlessFault_withSTAndStack]
    rfl
  | ldBVx _ =>
    rw [exec_ldBVx, exec_ldBVx, ← State.unlessFault_withSTAndStack, ← State.storeData_withSTAndStack]
    rfl
  | ldMemVx _ =>
    rw [exec_ldMemVx, exec_ldMemVx, ← State.unlessFault_withSTAndStack, ← State.storeData_withSTAndStack]
    rfl
  | _ => rfl

/-! ### Calls and returns -/

theorem State.callTo_setST (s : State) (w : Word) (b : Byte) :
    (s.setST b).callTo w = mapNext (·.setST b) (s.callTo w) := by
  by_cases h : s.sp.val < 8
  · simp [State.callTo, h]
    rfl
  · simp [State.callTo, h]
    rfl

theorem State.popPc_setST (s : State) (b : Byte) : (s.setST b).popPc = mapNext (·.setST b) s.popPc := by
  by_cases h : 0 < s.sp.val
  · simp [State.popPc, h]
    rfl
  · simp [State.popPc, h]
    rfl

end Sys2Proof.Machine

namespace Sys2Proof.Proofs

open Sys2Proof.Machine

/-- Settles O25: only Fx0A makes step 2 wait, a wait step waits or runs, and steps 3 and 4 leave the run state alone. -/
theorem runStateTransitions : Obligations.RunStateTransitions := by
  refine ⟨fun s t x hr h ht => ?_, fun s t x hr h => ?_⟩
  · rcases step_cases h with ⟨_, _, rfl⟩ | ⟨u, ⟨_, ⟨_, hu⟩ | ⟨y, hy, _⟩⟩, rfl⟩
    · simp at ht
    · rw [State.finishIteration_run] at ht
      exact (s.fetched_polled).symm.trans (executeNext_waiting hr hu ht)
    · simp [hr] at hy
  · rcases step_cases h with ⟨_, hq, rfl⟩ | ⟨u, ⟨_, ⟨hr', _⟩ | ⟨y, hy, rfl⟩⟩, rfl⟩
    · exact .inr (.inr ⟨rfl, hq⟩)
    · simp [hr] at hr'
    · obtain rfl : x = y := by simpa [hr] using hy
      rw [State.finishIteration_run]
      exact (State.waitStep_run (s := s.polled) hr).imp_right .inl

/-- Settles O26: a call and a return go through their operations, and every other instruction through
`exec_withSTAndStack`, with the stack it leaves as it is. -/
theorem noInstructionReadsTheSoundTimer : Obligations.NoInstructionReadsTheSoundTimer := by
  intro i s t b h
  refine ⟨fun hST => ?_, ?_⟩
  · by_cases hret : i = .ret
    · subst hret
      exact (s.popPc_setST b).trans (congrArg (mapNext (·.setST b)) h)
    by_cases hcall : ∃ nnn, i = .call nnn
    · obtain ⟨nnn, rfl⟩ := hcall
      exact (s.callTo_setST _ b).trans (congrArg (mapNext (·.setST b)) h)
    have hstack : t.stack = s.stack := ((onlyCallAndReturnTouchTheStack i s t h).1 (not_exists.1 hcall)).1
    calc exec i (s.setST b)
        = mapNext (State.withSTAndStack b s.stack) (exec i s) :=
          exec_withSTAndStack b s.stack s hST hret (not_exists.1 hcall)
      _ = .next (t.withSTAndStack b s.stack) := by rw [h, mapNext_next]
      _ = .next (t.setST b) := by rw [← hstack]; rfl
  · rintro ⟨x, rfl⟩
    cases h
    rfl

/-- Settles O27: a return reads element `sp - 1` and a call writes element `sp` without reading it; every other instruction
leaves the stack alone, and all but Fx18, which reads none of it, go through `exec_withSTAndStack`. -/
theorem vacatedStackSlotsAreUnobservable : Obligations.VacatedStackSlotsAreUnobservable := by
  intro i s t j w hj h
  have hother (k : Fin 8) (hk : k ≠ j) : (s.stack.set j.val w)[k] = s.stack[k] :=
    Vector.getElem_set_ne _ _ fun e => hk (Fin.ext e.symm)
  by_cases hret : i = .ret
  · subst hret
    rcases State.popPc_cases h with ⟨hs, rfl⟩ | ⟨hs, rfl⟩
    · have hread : (s.stack.set j.val w)[s.sp.val - 1] = s.stack[s.sp.val - 1] :=
        Vector.getElem_set_ne _ _ (by omega)
      exact ⟨_, dif_pos hs, by simp only [hread], hother⟩
    · exact ⟨_, dif_neg (Nat.not_lt.2 hs.le), rfl, hother⟩
  by_cases hcall : ∃ nnn, i = .call nnn
  · obtain ⟨nnn, rfl⟩ := hcall
    rcases State.callTo_cases h with ⟨hs, rfl⟩ | ⟨hs, rfl⟩
    · refine ⟨_, dif_pos hs, rfl, fun k hk => ?_⟩
      simp only [Fin.getElem_fin, Vector.getElem_set]
      split
      · rfl
      · exact if_neg fun e => hk (Fin.ext e.symm)
    · exact ⟨_, dif_neg (Nat.not_lt.2 hs.ge), rfl, hother⟩
  have hstack : t.stack = s.stack := ((onlyCallAndReturnTouchTheStack i s t h).1 (not_exists.1 hcall)).1
  by_cases hST : ∃ x, i = .ldSTVx x
  · obtain ⟨x, rfl⟩ := hST
    cases h
    exact ⟨_, rfl, rfl, hother⟩
  have ht : t.ST = s.ST := (onlyTheirOwnInstructionsWriteTheTimers i s t h).2.1 (not_exists.1 hST)
  refine ⟨t.withSTAndStack s.ST (s.stack.set j.val w), ?_, ?_, ?_⟩
  · exact (exec_withSTAndStack s.ST _ s (not_exists.1 hST) hret (not_exists.1 hcall)).trans (congrArg _ h)
  · rw [← ht]; rfl
  · rw [hstack]; exact hother

end Sys2Proof.Proofs
end

section
/-! PROOF. Memory (20_memory.md): data addresses (O30), the font region (O20), and a fetch after a store (O31). -/

namespace Sys2Proof.Machine

/-! ### Data addresses -/

/-- The word addition of R55 and its mask are one reduction modulo 4096, because 4096 divides 65536. -/
theorem State.ea_eq_mod (s : State) (k : Nat) : s.ea k = (s.I.toNat + k) % 4096 := by
  rw [State.ea, toNat_and_0FFF, BitVec.toNat_add, BitVec.toNat_ofNat]
  omega

/-! ### What each part of an iteration does to the bytes of memory -/

@[simp] theorem State.byteAt_frameStep (s : State) (due : Bool) (a : Nat) : (s.frameStep due).byteAt a = s.byteAt a := by
  rcases s.frameStep_cases due with e | ⟨_, e⟩ | ⟨n, _, _, e⟩ <;> rw [e]
  · exact State.byteAt_congr s.tick_mem s.tick_cfg a
  · rfl

/-- Steps 3 and 4 write no memory. -/
@[simp] theorem State.byteAt_finishIteration (s : State) (due : Bool) (a : Nat) :
    (s.finishIteration due).byteAt a = s.byteAt a := by
  by_cases h : s.Faulted
  · rw [State.finishIteration_of_faulted due h]
  · rw [State.finishIteration_of_not_faulted due h]
    exact (State.byteAt_congr (State.audioStep_mem _) (State.audioStep_cfg _) a).trans (s.byteAt_frameStep due a)

/-- A wait step writes no memory. -/
@[simp] theorem State.byteAt_waitStep (s : State) (x : RegIx) (a : Nat) : (s.waitStep x).byteAt a = s.byteAt a := by
  rcases s.waitStep_cases x with ⟨k, _, e⟩ | ⟨_, e⟩ <;> rw [e]
  exact State.byteAt_congr rfl rfl a

/-- No instruction changes a byte of the font region: a store there takes the fault of R53 before it writes. -/
theorem exec_byteAt_font {i : Instr} {s t : State} (h : exec i s = .next t) {a : Nat} (ha : a < Params.fontEnd) :
    t.byteAt a = s.byteAt a := by
  rcases exec_cases h with ⟨f, rfl⟩ | k
  · exact State.byteAt_congr (s.withFault_mem f) (s.withFault_cfg f) a
  · exact k.font a ha

/-- Fetch and execute change no byte of the font region. -/
theorem executeNext_byteAt_font {s u : State} (h : executeNext s = .next u) {a : Nat} (ha : a < Params.fontEnd) :
    u.byteAt a = s.byteAt a := by
  rcases executeNext_cases h with ⟨f, _, rfl⟩ | ⟨i, _, hi⟩ | ⟨op, _, rfl⟩
  · exact State.byteAt_congr (s.withFault_mem f) (s.withFault_cfg f) a
  · exact (exec_byteAt_font hi ha).trans (State.byteAt_congr s.advance_mem s.advance_cfg a)
  · exact State.byteAt_congr rfl rfl a

/-- Step 2 of an iteration changes no byte of the font region. -/
theorem AfterStepTwo.byteAt_font {s u : State} (h : AfterStepTwo s u) {a : Nat} (ha : a < Params.fontEnd) :
    u.byteAt a = s.byteAt a := by
  have hpolled : s.polled.byteAt a = s.byteAt a := State.byteAt_congr s.polled_mem s.polled_cfg a
  obtain ⟨_, ⟨_, he⟩ | ⟨x, _, rfl⟩⟩ := h
  · exact (executeNext_byteAt_font he ha).trans hpolled
  · exact (s.polled.byteAt_waitStep x a).trans hpolled

/-! ### Fetch after a store -/

/-- The word of an instruction decodes to it: each format gives its fields back, and the family and the sub-selector pick
the instruction's own row of R76. -/
theorem decodeWord_encodeWord (i : Instr) : decodeWord (encodeWord i) = .ok i := by
  cases i with
  | cls | ret => rfl
  | jp _ | call _ | ldINnn _ | jpV0Nnn _ | seVxKk _ _ | sneVxKk _ _ | ldVxKk _ _ | addVxKk _ _ | rndVxKk _ _
  | drwVxVyN _ _ _ => simp [encodeWord, decodeWord]
  | seVxVy _ _ => simp [encodeWord, decodeWord, decode5]
  | sneVxVy _ _ => simp [encodeWord, decodeWord, decode9]
  | ldVxVy _ _ | orVxVy _ _ | andVxVy _ _ | xorVxVy _ _ | addVxVy _ _ | subVxVy _ _ | shrVxVy _ _ | subnVxVy _ _
  | shlVxVy _ _ => simp [encodeWord, decodeWord, decode8]
  | skpVx _ | sknpVx _ => simp [encodeWord, decodeWord, decodeE]
  | ldVxDT _ | ldVxK _ | ldDTVx _ | ldSTVx _ | addIVx _ | ldFVx _ | ldBVx _ | ldMemVx _ | ldVxMem _ =>
    simp [encodeWord, decodeWord, decodeF]

/-- The bytes of `op` stored at `a` and `a + 1`, the more significant one first (R72). -/
def State.storeWord (s : State) (a : Nat) (op : Word) : State :=
  (s.storeByte a (wordHi op)).storeByte (a + 1) (wordLo op)

@[simp] theorem State.storeWord_pc (s : State) (a : Nat) (op : Word) : (s.storeWord a op).pc = s.pc := rfl

@[simp] theorem State.byteAt_storeWord_hi (s : State) (a : Nat) (op : Word) :
    (s.storeWord a op).byteAt a = wordHi op :=
  (State.byteAt_storeByte_other _ _ (Nat.ne_of_lt a.lt_succ_self)).trans (s.byteAt_storeByte_same a _)

@[simp] theorem State.byteAt_storeWord_lo (s : State) (a : Nat) (op : Word) :
    (s.storeWord a op).byteAt (a + 1) = wordLo op := State.byteAt_storeByte_same _ _ _

/-- A stored word leaves every byte but its own two alone. -/
theorem State.memFrame_storeWord (s : State) (a : Nat) (op : Word) : MemFrame [a, a + 1] s (s.storeWord a op) := by
  intro b hb
  obtain ⟨hhi, hlo⟩ : b ≠ a ∧ b ≠ a + 1 := by simpa using hb
  exact (State.byteAt_storeByte_other _ _ hlo).trans (s.byteAt_storeByte_other _ hhi)

/-- A fetch reads the word stored at `pc`. -/
@[simp] theorem State.fetchWord_storeWord (s : State) (op : Word) : (s.storeWord s.pc.toNat op).fetchWord = op := by
  simp [State.fetchWord]

/-- A fetch inside the window reads the instruction stored at `pc`. -/
theorem State.fetched_storeWord_encodeWord {s : State} (h : s.fetchAllowed = true) (i : Instr) :
    (s.storeWord s.pc.toNat (encodeWord i)).fetched = .instr i :=
  State.fetched_of_instr h (by rw [State.fetchWord_storeWord, decodeWord_encodeWord])

end Sys2Proof.Machine

namespace Sys2Proof.Proofs

open Sys2Proof.Machine

/-- Settles O20: only step 2 of an iteration writes memory, and every store in it passes the write check of R53 or takes
its fault. -/
theorem fontRegionIsNeverMutated : Obligations.FontRegionIsNeverMutated := by
  intro s t h a ha
  rcases step_cases h with ⟨_, _, rfl⟩ | ⟨u, hu, rfl⟩
  · exact State.byteAt_congr rfl rfl a
  · exact (u.byteAt_finishIteration _ a).trans (hu.byteAt_font ha)

/-- Settles O31: the fetch puts the two stored bytes together again, and the decoder inverts the encoder. -/
theorem fetchSeesStoredBytes : Obligations.FetchSeesStoredBytes := by
  rintro s i hlo hhi _ rfl
  exact ⟨State.fetched_storeWord_encodeWord (State.fetchAllowed_iff.2 ⟨hlo, hhi⟩) i, s.memFrame_storeWord _ _⟩

/-- Settles O30, by reducing the masked word sum modulo 4096. -/
theorem effectiveAddressIsModulo4096 : Obligations.EffectiveAddressIsModulo4096 := State.ea_eq_mod

end Sys2Proof.Proofs
end

section
/-! PROOF. The decoder against the opcode map (30_encoding.md): it inverts the encoder on every sequence of bytes (O2), it
ignores no bit of a word (O3), and it rejects the words of R79 and no others (O4). A format filled with the fields of a word
is that word, and the family and the sub-selector that the decoder dispatches on are the format's fixed digits. -/

namespace Sys2Proof

/-! ### A format with the fields of a word is the word -/

theorem wordA_fields {op : Word} {f : BitVec 4} (hf : fieldFamily op = f.toNat) : wordA f (fieldNnn op) = op := by
  apply BitVec.eq_of_toNat_eq
  rw [wordA_toNat, fieldNnn_toNat, ← hf, fieldFamily_eq]
  omega

theorem wordXK_fields {op : Word} {f : BitVec 4} {kk : Byte} (hf : fieldFamily op = f.toNat)
    (hk : (fieldKk op).toNat = kk.toNat) : wordXK f (fieldX op) kk = op := by
  apply BitVec.eq_of_toNat_eq
  rw [wordXK_toNat, ← hk, fieldKk_toNat, fieldX_val, ← hf, fieldFamily_eq]
  omega

theorem wordXYN_fields {op : Word} {f n : BitVec 4} (hf : fieldFamily op = f.toNat)
    (hn : (fieldN op).toNat = n.toNat) : wordXYN f (fieldX op) (fieldY op) n = op := by
  apply BitVec.eq_of_toNat_eq
  rw [wordXYN_toNat, ← hn, fieldN_toNat, fieldY_val, fieldX_val, ← hf, fieldFamily_eq]
  exact hexDigits op.toNat

/-! ### A decoded word is the encoding of its instruction, family by family -/

theorem encodeWord_of_decode0 {op : Word} {i : Instr} (h : decode0 op = .ok i) : encodeWord i = op := by
  unfold decode0 at h
  split at h <;> cases h
  all_goals exact (BitVec.eq_of_toNat_eq ‹op.toNat = _›).symm

theorem encodeWord_of_decode5 {op : Word} {i : Instr} (hf : fieldFamily op = 0x5) (h : decode5 op = .ok i) :
    encodeWord i = op := by
  unfold decode5 at h
  split at h <;> cases h
  exact wordXYN_fields hf ‹_›

theorem encodeWord_of_decode8 {op : Word} {i : Instr} (hf : fieldFamily op = 0x8) (h : decode8 op = .ok i) :
    encodeWord i = op := by
  unfold decode8 at h
  split at h <;> cases h
  all_goals exact wordXYN_fields hf ‹_›

theorem encodeWord_of_decode9 {op : Word} {i : Instr} (hf : fieldFamily op = 0x9) (h : decode9 op = .ok i) :
    encodeWord i = op := by
  unfold decode9 at h
  split at h <;> cases h
  exact wordXYN_fields hf ‹_›

theorem encodeWord_of_decodeE {op : Word} {i : Instr} (hf : fieldFamily op = 0xE) (h : decodeE op = .ok i) :
    encodeWord i = op := by
  unfold decodeE at h
  split at h <;> cases h
  all_goals exact wordXK_fields hf ‹_›

theorem encodeWord_of_decodeF {op : Word} {i : Instr} (hf : fieldFamily op = 0xF) (h : decodeF op = .ok i) :
    encodeWord i = op := by
  unfold decodeF at h
  split at h <;> cases h
  all_goals exact wordXK_fields hf ‹_›

/-! ### The words that each family rejects (R79) -/

theorem decode0_rejects_iff (op : Word) :
    (∃ r, decode0 op = .error r) ↔ op.toNat ≠ 0x00E0 ∧ op.toNat ≠ 0x00EE := by
  unfold decode0
  split <;> simp_all

theorem decode5_rejects_iff (op : Word) : (∃ r, decode5 op = .error r) ↔ op.toNat % 16 ≠ 0 := by
  rw [decode5, fieldN_toNat]
  split <;> simp_all

theorem decode8_rejects_iff (op : Word) :
    (∃ r, decode8 op = .error r) ↔ op.toNat % 16 ∈ [0x8, 0x9, 0xA, 0xB, 0xC, 0xD, 0xF] := by
  rw [decode8, fieldN_toNat]
  split <;> simp_all
  omega

theorem decode9_rejects_iff (op : Word) : (∃ r, decode9 op = .error r) ↔ op.toNat % 16 ≠ 0 := by
  rw [decode9, fieldN_toNat]
  split <;> simp_all

theorem decodeE_rejects_iff (op : Word) : (∃ r, decodeE op = .error r) ↔ op.toNat % 256 ∉ [0x9E, 0xA1] := by
  rw [decodeE, fieldKk_toNat]
  split <;> simp_all

theorem decodeF_rejects_iff (op : Word) :
    (∃ r, decodeF op = .error r) ↔ op.toNat % 256 ∉ [0x07, 0x0A, 0x15, 0x18, 0x1E, 0x29, 0x33, 0x55, 0x65] := by
  rw [decodeF, fieldKk_toNat]
  split <;> simp_all

/-! ### The dispatch on the family -/

theorem fieldFamily_lt (op : Word) : fieldFamily op < 16 := by
  rw [fieldFamily_eq]
  omega

/-- The encoder inverts the decoder on the words that decode. -/
theorem encodeWord_of_decodeWord {op : Word} {i : Instr} (h : decodeWord op = .ok i) : encodeWord i = op := by
  unfold decodeWord at h
  split at h
  case h_1 => exact encodeWord_of_decode0 h
  case h_6 hf => exact encodeWord_of_decode5 hf h
  case h_9 hf => exact encodeWord_of_decode8 hf h
  case h_10 hf => exact encodeWord_of_decode9 hf h
  case h_15 hf => exact encodeWord_of_decodeE hf h
  case h_16 =>
    have hf : fieldFamily op = 0xF := by
      have := fieldFamily_lt op
      simp_all only [imp_false]
      omega
    exact encodeWord_of_decodeF hf h
  case h_2 hf | h_3 hf | h_11 hf | h_12 hf => cases h; exact wordA_fields hf
  case h_4 hf | h_5 hf | h_7 hf | h_8 hf | h_13 hf => cases h; exact wordXK_fields hf rfl
  case h_14 hf => cases h; exact wordXYN_fields hf rfl

/-- A word is rejected by the decoder of its family, and only six families reject any. -/
theorem decodeWord_rejects_iff (op : Word) : (∃ r, decodeWord op = .error r) ↔
    (fieldFamily op = 0x0 ∧ ∃ r, decode0 op = .error r) ∨ (fieldFamily op = 0x5 ∧ ∃ r, decode5 op = .error r) ∨
    (fieldFamily op = 0x8 ∧ ∃ r, decode8 op = .error r) ∨ (fieldFamily op = 0x9 ∧ ∃ r, decode9 op = .error r) ∨
    (fieldFamily op = 0xE ∧ ∃ r, decodeE op = .error r) ∨ (fieldFamily op = 0xF ∧ ∃ r, decodeF op = .error r) := by
  have := fieldFamily_lt op
  rw [decodeWord]
  split
  case h_16 =>
    have hf : fieldFamily op = 0xF := by
      simp_all only [imp_false]
      omega
    simp [hf]
  all_goals simp [*]

end Sys2Proof

namespace Sys2Proof.Proofs

open Sys2Proof.Machine

/-- Settles O2: the two bytes are put together again, most significant first, and the decoder inverts the encoder. -/
theorem decodeOfEncodeIsTheInstruction : Obligations.DecodeOfEncodeIsTheInstruction := by
  intro i rest
  calc decode (encode i ++ rest)
    _ = decode (wordHi (encodeWord i) :: wordLo (encodeWord i) :: rest) := rfl
    _ = .ok (i, rest) := by rw [decode_bytes, wordOfBytes_hi_lo, decodeWord_encodeWord]

/-- Settles O3, family by family: the format of the decoded instruction, filled with the fields of the word, is the word. -/
theorem decodedWordEncodesBack : Obligations.DecodedWordEncodesBack := fun _ _ => encodeWord_of_decodeWord

/-- Settles O4: the dispatch on the family leaves the six families with a sub-selector, each of which rejects the values
that R79 lists. -/
theorem unrecognizedWordsAreThoseListed : Obligations.UnrecognizedWordsAreThoseListed := by
  intro w
  rw [decodeWord_rejects_iff, decode0_rejects_iff, decode5_rejects_iff, decode8_rejects_iff, decode9_rejects_iff,
    decodeE_rejects_iff, decodeF_rejects_iff, fieldFamily_eq]

end Sys2Proof.Proofs
end

section
/-! PROOF. The fetch (30_encoding.md R71, R72, R80): what step 2 does with the two bytes at `pc` (O6), and the whole step when
they decode (O5), when they do not (O7), and when `pc` is outside the window (O8). -/

namespace Sys2Proof.Machine

/-! ### The fetch window and the word fetched -/

theorem State.fetchAllowed_of_window {s : State} (hlo : 0x200 ≤ s.pc.toNat) (hhi : s.pc.toNat + 2 < 0xFFE) :
    s.fetchAllowed = true := State.fetchAllowed_iff.2 ⟨hlo, hhi⟩

theorem State.fetchAllowed_of_outside {s : State} (h : s.pc.toNat < 0x200 ∨ 0xFFB < s.pc.toNat) :
    s.fetchAllowed = false := by
  rw [Bool.eq_false_iff, ne_eq, State.fetchAllowed_iff, Params.fetchLo, Params.fetchHi]
  omega

theorem State.fetchWord_eq_iff {s : State} {op : Word} : s.fetchWord = op ↔
    op.toNat = (s.byteAt s.pc.toNat).toNat * 256 + (s.byteAt (s.pc.toNat + 1)).toNat := by
  rw [State.fetchWord, BitVec.toNat_eq, wordOfBytes_toNat, eq_comm]

/-- A fetch inside the window executes what the two bytes at `pc` decode to. -/
theorem State.fetched_of_decode {s : State} {i : Instr} {rest : List Byte} (h : s.fetchAllowed = true)
    (hd : decode s.fetchBytes = .ok (i, rest)) : s.fetched = .instr i := by
  simp [State.fetched, h, hd]

/-! ### A step in `Running` -/

/-- Without a quit, a step in `Running` is fetch and execute in the polled state, then steps 3 and 4. -/
theorem step_of_running {s : State} (hr : s.run = .running) (hq : s.nextInput.quit = false) :
    step s = mapNext (fun t => t.finishIteration s.nextInput.frameDue) (executeNext s.polled) := by
  simp [step, hr, iterate, hq, State.polled]

theorem afterStepTwo_of_running {s u : State} (hr : s.run = .running) (hq : s.nextInput.quit = false)
    (h : executeNext s.polled = .next u) : AfterStepTwo s u := ⟨hq, .inl ⟨hr, h⟩⟩

/-! ### Frames of the parts of an iteration -/

theorem Unchanged.trans {p : Part} {s t u : State} (h : Unchanged p s t) (h' : Unchanged p t u) : Unchanged p s u := by
  cases p
  case V | mem => exact fun a => (h' a).trans (h a)
  all_goals exact Eq.trans h' h

/-- Two changes one after the other write what either writes. -/
theorem Frame.trans {ps qs : List Part} {s t u : State} (h : Frame ps s t) (h' : Frame qs t u) : Frame (ps ++ qs) s u :=
  fun p hp => (h p fun hmem => hp (List.mem_append_left _ hmem)).trans
    (h' p fun hmem => hp (List.mem_append_right _ hmem))

theorem frame_polled (s : State) : Frame [.key, .released, .rand, .inputs, .iter, .out] s s.polled := by
  intro p hp
  cases p <;> simp_all [Unchanged, State.byteAt, State.getV_eq]

theorem frame_logUnrecognized (s : State) (op : Word) : Frame [.out] s (s.logUnrecognized op) := by
  intro p hp
  cases p <;> simp_all [Unchanged, State.byteAt, State.getV_eq]

theorem frame_tick (s : State) : Frame [.DT, .ST, .frameAcc, .out] s s.tick := by
  intro p hp
  cases p <;> simp_all [Unchanged, State.byteAt, State.getV_eq]

theorem frame_frameAcc (s : State) (n : Nat) : Frame [.frameAcc] s { s with frameAcc := n } := by
  intro p hp
  cases p <;> simp_all [Unchanged, State.byteAt, State.getV_eq]

theorem frame_audioStep (s : State) : Frame [.audioOn, .out] s s.audioStep := by
  intro p hp
  cases p <;> simp_all [Unchanged, State.byteAt, State.getV_eq]

theorem frame_frameStep (s : State) (due : Bool) : Frame [.DT, .ST, .frameAcc, .out] s (s.frameStep due) := by
  rcases s.frameStep_cases due with e | ⟨_, e⟩ | ⟨n, _, _, e⟩ <;> rw [e]
  · exact frame_tick s
  · exact Frame.refl _ s
  · exact (frame_frameAcc s _).mono (by decide)

/-- Steps 3 and 4 write the timers, the accumulator, the audio value and the outputs. -/
theorem frame_finishIteration (s : State) (due : Bool) :
    Frame [.DT, .ST, .frameAcc, .audioOn, .out] s (s.finishIteration due) := by
  by_cases h : s.Faulted
  · rw [State.finishIteration_of_faulted due h]
    exact Frame.refl _ s
  · rw [State.finishIteration_of_not_faulted due h]
    exact ((frame_frameStep s due).trans (frame_audioStep _)).mono (by decide)

/-! ### What steps 3 and 4 leave of the log and the diagnostic -/

theorem State.frameStep_out (s : State) (due : Bool) :
    (s.frameStep due).out.log = s.out.log ∧ (s.frameStep due).out.diag = s.out.diag := by
  rcases s.frameStep_cases due with e | ⟨_, e⟩ | ⟨n, _, _, e⟩ <;> simp [e]

theorem State.finishIteration_out (s : State) (due : Bool) :
    (s.finishIteration due).out.log = s.out.log ∧ (s.finishIteration due).out.diag = s.out.diag := by
  by_cases h : s.Faulted
  · rw [State.finishIteration_of_faulted due h]
    exact ⟨rfl, rfl⟩
  · rw [State.finishIteration_of_not_faulted due h]
    exact s.frameStep_out due

/-! ### An unrecognized opcode -/

/-- What step 2 leaves of an unrecognized opcode: `pc` past it and the opcode reported (R80). -/
theorem frame_advance_logUnrecognized (s : State) (op : Word) :
    Frame [.pc, .out] s (s.advance.logUnrecognized op) :=
  (frame_setPc s _).trans (frame_logUnrecognized _ op)

end Sys2Proof.Machine

namespace Sys2Proof.Proofs

open Sys2Proof.Machine

/-- Settles O7: the reported opcode and the advanced `pc` are all that step 2 writes, and steps 3 and 4 keep both. -/
theorem unrecognizedOpcodeIsALoggedNoOp : Obligations.UnrecognizedOpcodeIsALoggedNoOp := by
  intro s r op hr hq hlo hhi hop hd
  obtain rfl := State.fetchWord_eq_iff.2 hop
  have hf : s.polled.fetched = .unrecognized s.fetchWord :=
    s.fetched_polled.trans (State.fetched_of_unrecognized (State.fetchAllowed_of_window hlo hhi) hd)
  have hu := afterStepTwo_of_running hr hq (executeNext_of_unrecognized hf)
  have hframe := frame_advance_logUnrecognized s.polled s.fetchWord
  have hfinish := frame_finishIteration (s.polled.advance.logUnrecognized s.fetchWord) s.nextInput.frameDue
  obtain ⟨hlog, hdiag⟩ := State.finishIteration_out (s.polled.advance.logUnrecognized s.fetchWord) s.nextInput.frameDue
  exact ⟨_, hu, rfl, rfl, rfl, hframe, _, step_of_afterStepTwo hu, hfinish .pc (by decide), hlog, hdiag,
    (((frame_polled s).trans hframe).trans hfinish).mono (by decide)⟩

/-- Settles O8: the fetch faults before it reads, and a faulted step 2 is the whole iteration. -/
theorem fetchOutsideTheWindowFaults : Obligations.FetchOutsideTheWindowFaults := by
  intro s hr hq hpc
  have hf : s.polled.fetched = .fault (.inaccessibleMemoryAddress s.pc) :=
    s.fetched_polled.trans (State.fetched_of_outside (State.fetchAllowed_of_outside hpc))
  have hstep := step_of_afterStepTwo (afterStepTwo_of_running hr hq (executeNext_of_fault hf))
  rw [State.finishIteration_of_faulted _ (State.faulted_withFault _ _)] at hstep
  exact ⟨_, hstep, rfl, rfl, rfl, rfl, rfl, ((frame_polled s).trans (frame_withFault _ _)).mono (by decide)⟩

/-- Settles O1, by evaluating the decoder at the fourteen words. -/
theorem sampleWordsDecode : Obligations.SampleWordsDecode := by
  unfold Obligations.SampleWordsDecode
  decide

/-- Settles O5: the poll changes neither what is fetched nor `pc`. -/
theorem stepRunsTheDecodedInstruction : Obligations.StepRunsTheDecodedInstruction := by
  intro s i rest hr hq hlo hhi hd
  have hf : s.polled.fetched = .instr i :=
    s.fetched_polled.trans (State.fetched_of_decode (State.fetchAllowed_of_window hlo hhi) hd)
  rw [step_of_running hr hq, executeNext_of_instr hf]
  rfl

/-- Settles O6: the word fetched is the one whose bytes stand at `pc` and `pc + 1`. -/
theorem fetchedOpcodeIsBigEndian : Obligations.FetchedOpcodeIsBigEndian := by
  intro s op hlo hhi hop
  obtain rfl := State.fetchWord_eq_iff.2 hop
  have hwin := State.fetchAllowed_of_window hlo hhi
  exact ⟨fun _ hd => State.fetched_of_instr hwin hd, fun _ hd => State.fetched_of_unrecognized hwin hd⟩

end Sys2Proof.Proofs
end

section
/-! PROOF. The instructions of families 0 to 7 and the register skip of family 9 (40_flow_and_immediates.md,
42_index_random_draw.md R140): the stack (O33, O34, O36, O37), the jump (O35), the skips (O38, O39), the immediates (O40)
and the clear (O32). Where an obligation gives the word of an instruction as a number, that number is the value of the
instruction's encoding. -/

namespace Sys2Proof.Machine

/-! ### Words given as numbers -/

/-- The number of an instruction's encoding decodes to the instruction. -/
theorem decodeWord_ofNat {n : Nat} {i : Instr} (h : (encodeWord i).toNat = n) :
    decodeWord (BitVec.ofNat 16 n) = .ok i := by
  rw [← h, BitVec.ofNat_toNat, BitVec.setWidth_eq, decodeWord_encodeWord]

@[simp] theorem zextNnn_toNat (nnn : BitVec 12) : (zextNnn nnn).toNat = nnn.toNat :=
  BitVec.toNat_setWidth_of_le (by decide)

/-! ### Calls and returns, by the number of addresses held -/

/-- A call with `j < 8` addresses held writes element `j`, which is slot `j + 1` (R103). -/
theorem State.callTo_of_sp {s : State} {j : Fin 8} (h : s.sp.val = j.val) (w : Word) :
    s.callTo w = .next { s with sp := j.succ, stack := s.stack.set j.val s.pc, pc := w } := by
  rw [State.callTo, dif_pos (h ▸ j.isLt)]
  simp only [h]
  rfl

theorem State.callTo_of_full {s : State} (h : s.sp.val = 8) (w : Word) :
    s.callTo w = .next (s.withFault (.stackOverflow s.ia)) := dif_neg h.not_lt

/-- A return with `j + 1` addresses held reads element `j`, which is slot `j + 1` (R101). -/
theorem State.popPc_of_sp {s : State} {j : Fin 8} (h : s.sp.val = j.val + 1) :
    s.popPc = .next { s with pc := s.stack[j], sp := j.castSucc } := by
  rw [State.popPc, dif_pos (h ▸ j.val.succ_pos)]
  simp only [h, Nat.add_sub_cancel]
  rfl

theorem State.popPc_of_empty {s : State} (h : s.sp.val = 0) :
    s.popPc = .next (s.withFault (.stackUnderflow s.ia)) := dif_neg h.not_gt

/-- A return undoes a call, up to the slot that the call wrote. -/
theorem State.popPc_of_callTo {s t : State} {w : Word} (hs : s.sp.val < 8) (h : s.callTo w = .next t) :
    t.popPc = .next { s with stack := s.stack.set s.sp.val s.pc } := by
  rw [State.callTo_of_sp (j := ⟨s.sp.val, hs⟩) rfl] at h
  cases h
  rw [State.popPc_of_sp (j := ⟨s.sp.val, hs⟩) rfl]
  simp

theorem frame_setStack (s : State) (st : Vector Word 8) : Frame [.stack] s { s with stack := st } := by
  intro p hp
  cases p <;> simp_all [Unchanged, State.byteAt, State.getV_eq]

/-! ### Conditional skips -/

/-- An instruction that does a conditional skip steps over one word where its condition holds, stays where it does not, and
changes nothing but `pc`. -/
theorem exec_skips {i : Instr} {s : State} {c : Bool} {P Q : Prop} (h : exec i s = .next (s.skipIf c))
    (hP : P → c = true) (hQ : Q → c = false) :
    ∃ t, exec i s = .next t ∧ Frame [.pc] s t ∧
      (P → t.pc.toNat = (s.pc.toNat + 2) % 65536) ∧ (Q → t.pc = s.pc) := by
  refine ⟨_, h, frame_skipIf s c, fun p => ?_, fun q => ?_⟩
  · rw [hP p]
    exact BitVec.toNat_add s.pc 2
  · rw [hQ q]
    rfl

end Sys2Proof.Machine

namespace Sys2Proof.Proofs

open Sys2Proof.Machine

/-- Settles O37: the return reads the slot that the call wrote, and puts `pc` and `sp` back. -/
theorem returnComesBackAfterTheCall : Obligations.ReturnComesBackAfterTheCall := by
  intro s t nnn hs h
  refine ⟨_, State.popPc_of_callTo hs h, rfl, rfl, frame_setStack s _, fun k hk => ?_, fun k hk => ?_⟩
  · simp [hk]
  · exact Vector.getElem_set_ne hs k.isLt (Ne.symm hk)

/-- Settles O32, by the pixels of the cleared framebuffer. -/
theorem clsClearsEveryPixel : Obligations.ClsClearsEveryPixel :=
  ⟨rfl, fun s => ⟨_, rfl, clearFB_pixel, frame_setFB s clearFB⟩⟩

/-- Settles O33: the newest of `j + 1` addresses stands in element `j`. -/
theorem retPopsTheReturnAddress : Obligations.RetPopsTheReturnAddress :=
  ⟨rfl, fun s _ h => ⟨_, State.popPc_of_sp h, rfl, rfl, frame_pop s _ _⟩⟩

/-- Settles O34: the check of `sp` comes before any write, so the fault is all that happens. -/
theorem stackFaults : Obligations.StackFaults :=
  ⟨fun s h => ⟨_, State.popPc_of_empty h, rfl, rfl, frame_withFault s _⟩,
    fun s nnn h => ⟨_, State.callTo_of_full h (zextNnn nnn), rfl, rfl, frame_withFault s _⟩⟩

/-- Settles O35: the zero extension keeps the number. -/
theorem jpSetsThePc : Obligations.JpSetsThePc := by
  intro nnn
  exact ⟨decodeWord_ofNat (wordA_toNat 0x1 nnn), fun s => ⟨_, rfl, zextNnn_toNat nnn, frame_setPc s _⟩⟩

/-- Settles O36: the call writes element `j` and no other. -/
theorem callPushesTheReturnAddress : Obligations.CallPushesTheReturnAddress := by
  intro nnn
  refine ⟨decodeWord_ofNat (wordA_toNat 0x2 nnn), fun s j h => ?_⟩
  refine ⟨_, State.callTo_of_sp h (zextNnn nnn), rfl, Vector.getElem_set_self j.isLt, fun k hk => ?_, zextNnn_toNat nnn,
    frame_stack s _ _ _⟩
  exact Vector.getElem_set_ne j.isLt k.isLt fun e => hk (Fin.ext e.symm)

/-- Settles O38: both are conditional skips, on Vx and `kk` equal, respectively not equal. -/
theorem skipsOnAnImmediate : Obligations.SkipsOnAnImmediate := by
  intro x kk
  exact ⟨decodeWord_ofNat (wordXK_toNat 0x3 x kk), decodeWord_ofNat (wordXK_toNat 0x4 x kk), fun s =>
    ⟨exec_skips rfl beq_iff_eq.2 beq_eq_false_iff_ne.2, exec_skips rfl bne_iff_ne.2 bne_eq_false_iff_eq.2⟩⟩

/-- Settles O39: both are conditional skips, on Vx and Vy equal, respectively not equal. -/
theorem skipsOnTwoRegisters : Obligations.SkipsOnTwoRegisters := by
  intro x y
  exact ⟨decodeWord_ofNat (wordXYN_toNat 0x5 x y 0x0), decodeWord_ofNat (wordXYN_toNat 0x9 x y 0x0), fun s =>
    ⟨exec_skips rfl beq_iff_eq.2 beq_eq_false_iff_ne.2, exec_skips rfl bne_iff_ne.2 bne_eq_false_iff_eq.2⟩⟩

/-- Settles O40: both write the one register Vx, and the addition of bytes wraps at 256. -/
theorem loadAndAddImmediateSetNoFlag : Obligations.LoadAndAddImmediateSetNoFlag := by
  intro x kk
  refine ⟨decodeWord_ofNat (wordXK_toNat 0x6 x kk), decodeWord_ofNat (wordXK_toNat 0x7 x kk), fun s => ⟨?_, ?_⟩⟩
  · obtain ⟨hframe, hregs⟩ := changesOnly_setV s x kk
    exact ⟨_, rfl, s.getV_setV_same x kk, hregs, hframe⟩
  · obtain ⟨hframe, hregs⟩ := changesOnly_setV s x (s.getV x + kk)
    exact ⟨_, rfl, by rw [State.getV_setV_same, BitVec.toNat_add], hregs, hframe⟩

end Sys2Proof.Proofs
end

section
/-! PROOF. The instructions of family 8 (41_alu.md): the copy and the bitwise operations, which set no flag (O41), and the
addition (O42), the subtractions (O43) and the shifts (O44), which write the flag after the result (R120). -/

namespace Sys2Proof.Machine

/-! ### The words of the family -/

/-- An instruction in the format XYN of family 8 is what `0x8xyn` decodes to. -/
theorem decodeWord_family8 {x y : RegIx} {n : BitVec 4} {i : Instr} (h : encodeWord i = wordXYN 0x8 x y n) :
    decodeWord (BitVec.ofNat 16 (0x8000 + n.toNat + x.val * 256 + y.val * 16)) = .ok i := by
  apply decodeWord_ofNat
  rw [h, wordXYN_toNat, show (0x8 : BitVec 4).toNat = 8 from rfl]
  omega

/-! ### Results and flags as numbers -/

/-- The difference of two bytes, with the 256 that R126 and R128 add. -/
theorem toNat_byteSub (a b : Byte) : (a - b).toNat = (a.toNat + 256 - b.toNat) % 256 := by
  rw [BitVec.toNat_sub]
  omega

theorem toNat_flagByte (c : Bool) : (flagByte c).toNat = c.toNat := by
  cases c <;> rfl

/-- A comparison as a flag (R125, R126, R128). -/
theorem toNat_flagByte_decide (p : Prop) [Decidable p] : (flagByte (decide p)).toNat = if p then 1 else 0 := by
  rw [toNat_flagByte, Bool.toNat, Bool.cond_decide]

/-- The bit that a right shift by one shifts out is the remainder (R127). -/
theorem toNat_flagByte_shrFlag (b : Byte) : (flagByte (shrFlag b)).toNat = b.toNat % 2 := by
  rw [toNat_flagByte, shrFlag, BitVec.getLsbD, Nat.toNat_testBit, Nat.pow_zero, Nat.div_one]

/-- The bit that a left shift by one shifts out is the top bit (R129). -/
theorem toNat_flagByte_shlFlag (b : Byte) : (flagByte (shlFlag b)).toNat = b.toNat / 128 := by
  rw [toNat_flagByte, shlFlag, BitVec.getLsbD, Nat.toNat_testBit]
  omega

theorem toNat_byteShr (b : Byte) : (b >>> 1).toNat = b.toNat / 2 := by
  rw [BitVec.toNat_ushiftRight, Nat.shiftRight_eq_div_pow, Nat.pow_one]

theorem toNat_byteShl (b : Byte) : (b <<< 1).toNat = b.toNat * 2 % 256 := by
  rw [BitVec.toNat_shiftLeft, Nat.shiftLeft_eq, Nat.pow_one]

/-! ### What an instruction of the family does -/

/-- An instruction that only writes a result in Vx sets no flag and changes nothing else. -/
theorem exec_writesResult {i : Instr} {s : State} {x : RegIx} {b : Byte} (h : exec i s = .next (s.setV x b)) :
    ∃ t, exec i s = .next t ∧ t.getV x = b ∧ RegFrame [x] s t ∧ Frame [.V] s t := by
  obtain ⟨hframe, hregs⟩ := changesOnly_setV s x b
  exact ⟨_, h, s.getV_setV_same x b, hregs, hframe⟩

/-- The same, of a result described bit by bit. -/
theorem exec_writesBits {i : Instr} {s : State} {x : RegIx} {b : Byte} {bit : Nat → Bool}
    (h : exec i s = .next (s.setV x b)) (hb : ∀ k, b.getLsbD k = bit k) :
    ∃ t, exec i s = .next t ∧ RegFrame [x] s t ∧ Frame [.V] s t ∧ ∀ k, (t.getV x).getLsbD k = bit k := by
  obtain ⟨t, ht, rfl, hregs, hframe⟩ := exec_writesResult h
  exact ⟨t, ht, hregs, hframe, hb⟩

/-- An instruction that writes a result in Vx and then a flag in VF leaves both there, the result unless x = 0xF (R120). -/
theorem exec_writesResultAndFlag {i : Instr} {s : State} {x : RegIx} {b : Byte} {c : Bool} {result flag : Nat}
    (h : exec i s = .next (s.setResultAndFlag x b c)) (hb : b.toNat = result) (hc : (flagByte c).toNat = flag) :
    ∃ t, exec i s = .next t ∧ (x ≠ vF → (t.getV x).toNat = result) ∧ (t.getV vF).toNat = flag ∧
      RegFrame [x, vF] s t ∧ Frame [.V] s t := by
  obtain ⟨hframe, hregs⟩ := changesOnly_setResultAndFlag s x b c
  refine ⟨_, h, fun hx => ?_, ?_, hregs, hframe⟩
  · rw [State.getV_setResultAndFlag_result s b c hx, hb]
  · rw [State.getV_setResultAndFlag_vF, hc]

end Sys2Proof.Machine

namespace Sys2Proof.Proofs

open Sys2Proof.Machine

/-- Settles O41: each of the four writes the one register Vx, and the bitwise operations act on each bit. -/
theorem copyAndLogicSetNoFlag : Obligations.CopyAndLogicSetNoFlag := by
  intro x y
  refine ⟨decodeWord_family8 (n := 0x0) rfl, decodeWord_family8 (n := 0x1) rfl, decodeWord_family8 (n := 0x2) rfl,
    decodeWord_family8 (n := 0x3) rfl, fun s => ⟨?_, ?_, ?_, ?_⟩⟩
  · exact exec_writesResult rfl
  · exact exec_writesBits rfl fun _ => BitVec.getLsbD_or
  · exact exec_writesBits rfl fun _ => BitVec.getLsbD_and
  · exact exec_writesBits rfl fun _ => BitVec.getLsbD_xor

/-- Settles O42: the addition of bytes wraps at 256, and the carry is the comparison of the sum with 255. -/
theorem addSetsTheCarry : Obligations.AddSetsTheCarry := by
  intro x y
  exact ⟨decodeWord_family8 (n := 0x4) rfl, fun s =>
    exec_writesResultAndFlag rfl (BitVec.toNat_add _ _) (toNat_flagByte_decide _)⟩

/-- Settles O43: both are one subtraction and one strict comparison, with the operands in either order. -/
theorem subtractSetsStrictlyGreater : Obligations.SubtractSetsStrictlyGreater := by
  intro x y
  exact ⟨decodeWord_family8 (n := 0x5) rfl, decodeWord_family8 (n := 0x7) rfl, fun s =>
    ⟨exec_writesResultAndFlag rfl (toNat_byteSub _ _) (toNat_flagByte_decide _),
      exec_writesResultAndFlag rfl (toNat_byteSub _ _) (toNat_flagByte_decide _)⟩⟩

/-- Settles O44: a shift by one halves or doubles Vy, and the bit shifted out is its lowest or its top bit. -/
theorem shiftsTakeVyAndSetTheBitShiftedOut : Obligations.ShiftsTakeVyAndSetTheBitShiftedOut := by
  intro x y
  exact ⟨decodeWord_family8 (n := 0x6) rfl, decodeWord_family8 (n := 0xE) rfl, fun s =>
    ⟨exec_writesResultAndFlag rfl (toNat_byteShr _) (toNat_flagByte_shrFlag _),
      exec_writesResultAndFlag rfl (toNat_byteShl _) (toNat_flagByte_shlFlag _)⟩⟩

end Sys2Proof.Proofs
end

section
/-! PROOF. The instructions Annn to Dxyn (42_index_random_draw.md): the address register (O45), the jump with an offset
(O46), the random byte (O47) and the draw (O48 to O50). A draw XORs one bit into every pixel: `spriteMask`, the sprite's
bit there, which is 0 outside the box. What O48 and O50 say of the pixels is read off it. -/

namespace Sys2Proof.Machine

/-! ### The jump with an offset -/

@[simp] theorem zextByte_toNat (b : Byte) : (zextByte b).toNat = b.toNat :=
  BitVec.toNat_setWidth_of_le (by decide)

/-- A byte plus 12 bits stays below 65536, so the target of Bnnn does not wrap (R142). -/
theorem toNat_zextByte_add_zextNnn (b : Byte) (nnn : BitVec 12) :
    (zextByte b + zextNnn nnn).toNat = b.toNat + nnn.toNat := by
  rw [BitVec.toNat_add, zextByte_toNat, zextNnn_toNat]
  omega

/-! ### The state that a draw makes -/

/-- The sprite bit that a draw of `n` rows XORs into pixel `(px, py)`: 0 outside the box that starts at
`(Vx mod 64, Vy mod 32)` (R144). -/
def State.spriteMask (s : State) (x y : RegIx) (n px py : Nat) : Bool :=
  decide ((startColumn (s.getV x) ≤ px ∧ px < startColumn (s.getV x) + 8) ∧
    startRow (s.getV y) ≤ py ∧ py - startRow (s.getV y) < n) &&
  spriteBit (s.byteAt (s.ea (py - startRow (s.getV y)))) (px - startColumn (s.getV x))

/-- The framebuffer and the collision flag after a draw of `n` rows whose bytes are readable (R144). -/
def State.drawing (s : State) (x y : RegIx) (n : Nat) : Framebuffer × Bool :=
  drawSprite s.cfg.collision (startColumn (s.getV x)) (startRow (s.getV y)) s.FB (s.dataBytes n)

/-- The state after a draw of `n` rows whose bytes are readable (R144). -/
def State.drawn (s : State) (x y : RegIx) (n : Nat) : State :=
  (s.setFB (s.drawing x y n).1).setFlag (s.drawing x y n).2

theorem exec_drwVxVyN_eq_drawn (x y : RegIx) (n : BitVec 4) (s : State) :
    exec (.drwVxVyN x y n) s = s.unlessFault (s.readFaults n.toNat) (s.drawn x y n.toNat) := rfl

/-- The one address of a data access that cannot be read is 0xFFF (R52). -/
theorem State.readFaults_none_iff_ne {s : State} {n : Nat} :
    s.readFaults n = none ↔ ∀ r, r < n → s.ea r ≠ 0xFFF := by
  have hlt (r : Nat) : s.ea r < Params.memSize ↔ s.ea r ≠ 0xFFF := by
    have := s.ea_lt r
    rw [Params.memSize]
    omega
  simp only [State.readFaults_none, hlt]

theorem exec_drwVxVyN_of_readable {s : State} {n : BitVec 4} (x y : RegIx) (h : s.readFaults n.toNat = none) :
    exec (.drwVxVyN x y n) s = .next (s.drawn x y n.toNat) := by
  rw [exec_drwVxVyN_eq_drawn, h, State.unlessFault]

/-- A draw that takes no fault read all its bytes, and drew. -/
theorem drawn_of_exec {x y : RegIx} {n : BitVec 4} {s t : State} (h : exec (.drwVxVyN x y n) s = .next t)
    (ht : ¬ t.Faulted) : s.readFaults n.toNat = none ∧ t = s.drawn x y n.toNat := by
  rw [exec_drwVxVyN_eq_drawn] at h
  rcases State.unlessFault_cases h with hdrawn | ⟨f, _, rfl⟩
  · exact hdrawn
  · exact absurd (s.faulted_withFault f) ht

/-! ### Its pixels -/

theorem State.drawn_pixel (s : State) (x y : RegIx) (n : Nat) {px py : Nat} (hx : px < 64) (hy : py < 32) :
    (s.drawn x y n).FB.pixel px py = (s.FB.pixel px py ^^ s.spriteMask x y n px py) := by
  rw [State.drawn, State.setFlag_FB, State.setFB_FB, State.drawing, drawSprite, drawRows_pixel _ _ _ _ _ _ hx hy,
    State.spriteMask]
  simp only [State.dataBytes_length, State.dataBytes_getElem]
  split
  · next hbox => rw [decide_eq_true hbox, Bool.true_and]
  · next hbox => rw [decide_eq_false hbox, Bool.false_and, Bool.xor_false]

theorem State.spriteMask_box (s : State) (x y : RegIx) {n r c : Nat} (hr : r < n) (hc : c < 8) :
    s.spriteMask x y n (startColumn (s.getV x) + c) (startRow (s.getV y) + r) = spriteBit (s.byteAt (s.ea r)) c := by
  simp [State.spriteMask, hr, hc]

theorem State.spriteMask_outside (s : State) (x y : RegIx) {n px py : Nat}
    (h : ∀ r c, r < n → c < 8 → ¬ (px = startColumn (s.getV x) + c ∧ py = startRow (s.getV y) + r)) :
    s.spriteMask x y n px py = false := by
  rw [State.spriteMask, decide_eq_false, Bool.false_and]
  rintro ⟨⟨hx, hx'⟩, hy, hr⟩
  exact h (py - startRow (s.getV y)) (px - startColumn (s.getV x)) hr (by omega) ⟨by omega, by omega⟩

/-! ### Its flag -/

/-- A pixel collides if it is set, and under `erased` the sprite clears it, under `remainsSet` it does not (R145). -/
theorem collides_xor_iff (rule : CollisionRule) (old bit : Bool) :
    collides rule old (old ^^ bit) = true ↔ old = true ∧ bit = decide (rule = .erased) := by
  cases rule <;> decide +revert

theorem State.drawing_hit (s : State) (x y : RegIx) (n : Nat) :
    (s.drawing x y n).2 = true ↔ ∃ r c, r < n ∧ c < 8 ∧
      startColumn (s.getV x) + c < 64 ∧ startRow (s.getV y) + r < 32 ∧
      s.FB.pixel (startColumn (s.getV x) + c) (startRow (s.getV y) + r) = true ∧
      spriteBit (s.byteAt (s.ea r)) c = decide (s.cfg.collision = .erased) := by
  rw [State.drawing, drawSprite, drawRows_hit]
  simp only [Bool.false_eq_true, false_or, State.dataBytes_length, State.dataBytes_getElem, collides_xor_iff,
    exists_prop, exists_and_left]

theorem State.drawn_getV_vF (s : State) (x y : RegIx) (n : Nat) :
    (s.drawn x y n).getV vF = flagByte (s.drawing x y n).2 := State.getV_setFlag_vF _ _

theorem flagByte_eq_zero_or_one (c : Bool) : flagByte c = 0 ∨ flagByte c = 1 := by
  cases c
  · exact .inl rfl
  · exact .inr rfl

theorem flagByte_eq_one_iff (c : Bool) : flagByte c = 1 ↔ c = true := by
  cases c <;> decide

/-! ### A draw after a draw -/

theorem State.changesOnly_drawn (s : State) (x y : RegIx) (n : Nat) :
    ChangesOnly [.FB, .V] [vF] s (s.drawn x y n) := changesOnly_setFB_setFlag s _ _

theorem State.readFaults_drawn (s : State) (x y : RegIx) (n m : Nat) :
    (s.drawn x y n).readFaults m = s.readFaults m := rfl

/-- A draw writes neither memory nor I, and no register but VF, so the same draw after it uses the same bits. -/
theorem State.spriteMask_drawn (s : State) {x y : RegIx} (n : Nat) (hx : x ≠ vF) (hy : y ≠ vF) :
    (s.drawn x y n).spriteMask x y n = s.spriteMask x y n := by
  have hgetV {r : RegIx} (hr : r ≠ vF) : (s.drawn x y n).getV r = s.getV r :=
    (s.changesOnly_drawn x y n).regs r (mt List.mem_singleton.1 hr)
  have hbyte (k : Nat) : (s.drawn x y n).byteAt ((s.drawn x y n).ea k) = s.byteAt (s.ea k) := rfl
  funext px py
  simp only [State.spriteMask, hgetV hx, hgetV hy, hbyte]

/-- XOR with the same bit twice is the identity. -/
theorem State.drawn_drawn_FB (s : State) {x y : RegIx} (n : Nat) (hx : x ≠ vF) (hy : y ≠ vF) :
    ((s.drawn x y n).drawn x y n).FB = s.FB := by
  apply Framebuffer.ext_pixel
  intro px py hpx hpy
  rw [State.drawn_pixel _ x y n hpx hpy, State.drawn_pixel s x y n hpx hpy, State.spriteMask_drawn s n hx hy,
    Bool.xor_assoc, Bool.xor_self, Bool.xor_false]

end Sys2Proof.Machine

namespace Sys2Proof.Proofs

open Sys2Proof.Machine

/-- Settles O48: inside the box the bit that is XORed into a pixel is its sprite bit, and outside it is 0. -/
theorem drawXorsTheClippedBox : Obligations.DrawXorsTheClippedBox := by
  intro x y n
  refine ⟨decodeWord_ofNat (wordXYN_toNat 0xD x y n), fun s hread => ?_⟩
  obtain ⟨hframe, hregs⟩ := s.changesOnly_drawn x y n.toNat
  refine ⟨_, exec_drwVxVyN_of_readable x y (State.readFaults_none_iff_ne.2 hread), hregs, hframe.mono (by simp),
    fun r c hr hc hx hy => ?_, fun px py hx hy hout => ?_⟩
  · exact (s.drawn_pixel x y n.toNat hx hy).trans (congrArg _ (s.spriteMask_box x y hr hc))
  · rw [s.drawn_pixel x y n.toNat hx hy, s.spriteMask_outside x y hout, Bool.xor_false]

/-- Settles O49: VF receives the flag of the draw, which says that some visible pixel of the box collides. -/
theorem drawSetsTheCollisionFlag : Obligations.DrawSetsTheCollisionFlag := by
  intro x y n s hread
  have hvF := s.drawn_getV_vF x y n.toNat
  refine ⟨_, exec_drwVxVyN_of_readable x y (State.readFaults_none_iff_ne.2 hread), ?_, ?_⟩
  · exact hvF ▸ flagByte_eq_zero_or_one _
  · exact hvF ▸ (flagByte_eq_one_iff _).trans (s.drawing_hit x y n.toNat)

/-- Settles O50: neither draw takes a fault, and the second XORs the same bit into every pixel as the first. -/
theorem drawingTwiceRestoresTheFramebuffer : Obligations.DrawingTwiceRestoresTheFramebuffer := by
  intro x y n s t u hx hy hs hst ht htu
  obtain ⟨hread, rfl⟩ := drawn_of_exec hst ht
  rw [exec_drwVxVyN_of_readable x y ((s.readFaults_drawn x y n.toNat n.toNat).trans hread)] at htu
  cases htu
  exact ⟨hs, s.drawn_drawn_FB n.toNat hx hy⟩

/-- Settles O45: the zero extension keeps the number. -/
theorem loadAddressRegister : Obligations.LoadAddressRegister := by
  intro nnn
  exact ⟨decodeWord_ofNat (wordA_toNat 0xA nnn), fun s => ⟨_, rfl, zextNnn_toNat nnn, frame_setI s _⟩⟩

/-- Settles O46: the sum of V0 and `nnn` fits a word. -/
theorem jumpWithOffset : Obligations.JumpWithOffset := by
  intro nnn
  exact ⟨decodeWord_ofNat (wordA_toNat 0xB nnn), fun s =>
    ⟨_, rfl, toNat_zextByte_add_zextNnn (s.getV v0) nnn, frame_setPc s _⟩⟩

/-- Settles O47: the mask acts on each bit, and the poll brings the byte. -/
theorem randomByteIsMasked : Obligations.RandomByteIsMasked := by
  intro x kk
  exact ⟨decodeWord_ofNat (wordXK_toNat 0xC x kk), fun s => exec_writesBits rfl fun _ => BitVec.getLsbD_and,
    State.polled_rand⟩

end Sys2Proof.Proofs
end

section
/-! PROOF. The instructions of families E and F (43_keys_timers_memory.md): the key skips (O51, O52), the timers (O53),
the wait for a key (O54), the address register (O55), the stores (O56, O57), the load (O58), and the faults of a data
access (O59, O60). A data access checks all its addresses before it writes: `exec_stores` says what a store does whose
checks pass, and `exec_faults` what any access does whose checks fail. -/

namespace Sys2Proof.Machine

/-! ### The words of the families -/

/-- An instruction in the format XK is what its family's digit, its selector and `x` decode to. -/
theorem decodeWord_formatXK {f : BitVec 4} {x : RegIx} {kk : Byte} {i : Instr} (h : encodeWord i = wordXK f x kk) :
    decodeWord (BitVec.ofNat 16 (f.toNat * 4096 + kk.toNat + x.val * 256)) = .ok i := by
  apply decodeWord_ofNat
  rw [h, wordXK_toNat, Nat.add_right_comm]

/-! ### Keys -/

theorem keyOf_of_toNat {b : Byte} {k : Key} (h : b.toNat = k.val) : keyOf b = some k := by
  rw [keyOf_of_lt (h ▸ k.isLt)]
  exact congrArg some (Fin.ext h)

theorem State.skipIfKey_of_key {s : State} {b : Byte} {k : Key} (h : b.toNat = k.val) (want : Bool) :
    s.skipIfKey b want = .next (s.skipIf (s.key[k] == want)) := by
  rw [State.skipIfKey, keyOf_of_toNat h]

theorem State.skipIfKey_of_no_key {s : State} {b : Byte} (h : 0xF < b.toNat) (want : Bool) :
    s.skipIfKey b want = .next (s.withFault (.invalidKey s.ia b)) := by
  rw [State.skipIfKey, keyOf_of_ge h]
  rfl

theorem State.toNat_skipIf_pc (s : State) (c : Bool) :
    (s.skipIf c).pc.toNat = if c = true then (s.pc.toNat + 2) % 65536 else s.pc.toNat := by
  cases c with
  | false => rfl
  | true => exact BitVec.toNat_add s.pc 2

/-! ### The address register -/

theorem toNat_glyphBase (b : Byte) : (glyphBase b).toNat = b.toNat % 16 * 5 := by
  have hnibble : (b &&& 0x0F).toNat = b.toNat % 16 :=
    (BitVec.toNat_and b 0x0F).trans (Nat.and_two_pow_sub_one_eq_mod b.toNat 4)
  rw [glyphBase, BitVec.toNat_mul, zextByte_toNat, hnibble, show (5 : Word).toNat = 5 from rfl]
  omega

/-! ### The digits of a byte -/

theorem toNat_hundreds (b : Byte) : (hundreds b).toNat = b.toNat / 100 := by
  rw [hundreds, BitVec.toNat_ofNat]
  omega

theorem toNat_tens (b : Byte) : (tens b).toNat = b.toNat / 10 % 10 := by
  rw [tens, BitVec.toNat_ofNat]
  omega

theorem toNat_ones (b : Byte) : (ones b).toNat = b.toNat % 10 := by
  rw [ones, BitVec.toNat_ofNat]
  omega

/-! ### The checks of a data access -/

/-- The addresses that can be written are 0x200 to 0xFFE (R53). -/
theorem State.writeFault_ea_none_iff {s : State} {k : Nat} :
    s.writeFault (s.ea k) = none ↔ 0x200 ≤ s.ea k ∧ s.ea k ≠ 0xFFF := by
  have := s.ea_lt k
  rw [State.writeFault_none, Params.fontEnd, Params.memSize]
  omega

theorem State.writeFaults_none_of_writable {s : State} {n : Nat}
    (h : ∀ k, k < n → 0x200 ≤ s.ea k ∧ s.ea k ≠ 0xFFF) : s.writeFaults n = none :=
  State.writeFaults_none.2 fun k hk => State.writeFault_none.1 (State.writeFault_ea_none_iff.2 (h k hk))

/-- The first address that cannot be written decides the fault of a store (R212). -/
theorem State.writeFaults_of_first {s : State} {n k : Nat} {f : FatalFault} (hk : k < n)
    (hb : ∀ j, j < k → 0x200 ≤ s.ea j ∧ s.ea j ≠ 0xFFF) (hf : s.writeFault (s.ea k) = some f) :
    s.writeFaults n = some f :=
  State.findSome_eas hk hf fun j hj => State.writeFault_ea_none_iff.2 (hb j hj)

theorem State.writeFault_missing (s : State) :
    s.writeFault 0xFFF = some (.inaccessibleDataAddress s.ia 0xFFF) := rfl

theorem State.writeFault_font {s : State} {a : Nat} (h : a < Params.fontEnd) :
    s.writeFault a = some (.fontRegionWrite s.ia a) := by
  have hm : ¬ Params.memSize ≤ a := Nat.not_le.2 (h.trans (by decide))
  rw [State.writeFault, if_neg hm, if_pos h]

theorem State.readFault_some {s : State} {a : Nat} {f : FatalFault} (h : s.readFault a = some f) :
    Params.memSize ≤ a ∧ f = .inaccessibleDataAddress s.ia a := by
  unfold State.readFault at h
  split at h
  · next ha => exact ⟨ha, (Option.some.inj h).symm⟩
  · cases h

/-- A read with some address at 0xFFF faults there, because every address that cannot be read is 0xFFF (R52). -/
theorem State.readFaults_of_missing {s : State} {n k : Nat} (hk : k < n) (h : s.ea k = 0xFFF) :
    s.readFaults n = some (.inaccessibleDataAddress s.ia 0xFFF) := by
  cases hf : s.readFaults n with
  | none => exact absurd h (State.readFaults_none_iff_ne.1 hf k hk)
  | some f =>
    obtain ⟨a, ha, hfa⟩ := List.exists_of_findSome?_eq_some hf
    obtain ⟨hge, rfl⟩ := State.readFault_some hfa
    obtain ⟨j, _, rfl⟩ := State.mem_eas.1 ha
    have hea : s.ea j = 0xFFF := Nat.le_antisymm (Nat.le_of_lt_succ (s.ea_lt j)) hge
    rw [hea]

/-! ### What a data access does -/

/-- An access whose checks fail takes the fault, and nothing else happens. -/
theorem exec_faults {i : Instr} {s t : State} {check : Option FatalFault} {f : FatalFault}
    (h : exec i s = s.unlessFault check t) (hf : check = some f) :
    ∃ u, exec i s = .next u ∧ Frame [.run, .out] s u ∧ u.run = .faulted f := by
  subst hf
  exact ⟨_, h, frame_withFault s f, rfl⟩

/-- A store of data writes memory at its addresses only. -/
theorem State.memFrame_storeData (s : State) (bs : List Byte) : MemFrame (s.eas bs.length) s (s.storeData bs) :=
  fun _ ha => s.byteAt_storeData_other ha

/-- A checked store of the bytes `bs` whose addresses can all be written puts byte `k` at `EA(k)` and changes nothing
else. -/
theorem exec_stores {i : Instr} {s : State} {bs : List Byte}
    (h : exec i s = s.unlessFault (s.writeFaults bs.length) (s.storeData bs)) (hn : bs.length ≤ 4096)
    (hok : ∀ k, k < bs.length → 0x200 ≤ s.ea k ∧ s.ea k ≠ 0xFFF) :
    ∃ t, exec i s = .next t ∧ (∀ (k : Nat) (hk : k < bs.length), t.byteAt (s.ea k) = bs[k]) ∧
      MemFrame (s.eas bs.length) s t ∧ Frame [.mem] s t := by
  rw [State.writeFaults_none_of_writable hok] at h
  exact ⟨_, h, fun k hk => s.byteAt_storeData_mem hn hk, s.memFrame_storeData bs, frame_storeData s bs⟩

end Sys2Proof.Machine

namespace Sys2Proof.Proofs

open Sys2Proof.Machine

/-- Settles O56: the three digits are one checked store, and the frame of its addresses is `EA(0)`, `EA(1)`, `EA(2)`. -/
theorem bcdStoresTheDecimalDigits : Obligations.BcdStoresTheDecimalDigits := by
  intro x
  refine ⟨decodeWord_formatXK (f := 0xF) (kk := 0x33) rfl, fun s hok => ?_⟩
  obtain ⟨t, ht, hbytes, hmem, hframe⟩ := exec_stores
    (bs := [hundreds (s.getV x), tens (s.getV x), ones (s.getV x)]) (exec_ldBVx x s) (by simp) hok
  refine ⟨t, ht, ?_, ?_, ?_, hmem, hframe⟩
  · rw [hbytes 0 (by simp)]
    exact toNat_hundreds _
  · rw [hbytes 1 (by simp)]
    exact toNat_tens _
  · rw [hbytes 2 (by simp)]
    exact toNat_ones _

/-- Settles O57: V0 to Vx are one checked store, whose byte `k` is Vk. -/
theorem storeRegistersToMemory : Obligations.StoreRegistersToMemory := by
  intro x
  refine ⟨decodeWord_formatXK (f := 0xF) (kk := 0x55) rfl, fun s hok => ?_⟩
  have hlen := s.regsUpTo_length x
  obtain ⟨t, ht, hbytes, hmem, hframe⟩ := exec_stores (i := .ldMemVx x) (bs := s.regsUpTo x)
    (by rw [exec_ldMemVx, hlen]) (by omega) fun k hk => hok k (by omega)
  refine ⟨t, ht, fun k hk => ?_, hlen ▸ hmem, hframe⟩
  rw [hbytes k.val (hlen ▸ Nat.lt_succ_of_le hk), State.regsUpTo_getElem]

/-- Settles O58: a load that can read all its bytes writes the registers up to Vx. -/
theorem loadRegistersFromMemory : Obligations.LoadRegistersFromMemory := by
  intro x
  refine ⟨decodeWord_formatXK (f := 0xF) (kk := 0x65) rfl, fun s hok => ?_⟩
  have hread : s.readFaults (x.val + 1) = none :=
    State.readFaults_none_iff_ne.2 fun k hk => hok k (Nat.le_of_lt_succ hk)
  refine ⟨s.loadRegs x, ?_, fun k hk => ?_, fun k hk => ?_, frame_loadRegs s x⟩
  · rw [exec_ldVxMem, hread, State.unlessFault]
  · rw [State.getV_loadRegs, if_pos hk]
  · rw [State.getV_loadRegs, if_neg (not_le.2 hk)]

/-- Settles O59: both stores check their addresses in order before they write, and the first that fails decides. -/
theorem storesFaultAtTheFirstBadAddress : Obligations.StoresFaultAtTheFirstBadAddress := by
  intro x s i n k hi hk hb
  have hexec : ∃ t, exec i s = s.unlessFault (s.writeFaults n) t := by
    rcases hi with ⟨rfl, rfl⟩ | ⟨rfl, rfl⟩
    · exact ⟨_, exec_ldBVx x s⟩
    · exact ⟨_, exec_ldMemVx x s⟩
  obtain ⟨t, hexec⟩ := hexec
  refine ⟨fun hmissing => ?_, fun hfont => ?_⟩
  · exact exec_faults hexec (State.writeFaults_of_first hk hb (hmissing ▸ s.writeFault_missing))
  · exact exec_faults hexec (State.writeFaults_of_first hk hb (State.writeFault_font hfont))

/-- Settles O60: the load and the draw check all their addresses before they write. -/
theorem loadsAndDrawsFaultAtTheMissingByte : Obligations.LoadsAndDrawsFaultAtTheMissingByte := by
  intro s i n k hi hk hmissing
  have hfault := State.readFaults_of_missing hk hmissing
  rcases hi with ⟨x, rfl, rfl⟩ | ⟨x, y, m, rfl, rfl⟩
  · exact exec_faults (exec_ldVxMem x s) hfault
  · exact exec_faults (exec_drwVxVyN_eq_drawn x y m s) hfault

/-- Settles O51: both are conditional skips, on the key pressed, respectively not pressed. -/
theorem skipsOnAKey : Obligations.SkipsOnAKey := by
  intro x
  refine ⟨decodeWord_formatXK (f := 0xE) (kk := 0x9E) rfl, decodeWord_formatXK (f := 0xE) (kk := 0xA1) rfl,
    fun s k hk => ⟨?_, ?_⟩⟩
  · refine ⟨_, State.skipIfKey_of_key hk true, frame_skipIf s _, ?_⟩
    rw [State.toNat_skipIf_pc, beq_true]
  · refine ⟨_, State.skipIfKey_of_key hk false, frame_skipIf s _, ?_⟩
    rw [State.toNat_skipIf_pc, beq_false]
    cases s.key[k] <;> rfl

/-- Settles O52: a Vx above 0xF names no key, whichever pressed state the skip asks for. -/
theorem skipOnNoKeyFaults : Obligations.SkipOnNoKeyFaults := by
  rintro x s i (rfl | rfl) hx
  · exact ⟨_, State.skipIfKey_of_no_key hx true, rfl, rfl, frame_withFault s _⟩
  · exact ⟨_, State.skipIfKey_of_no_key hx false, rfl, rfl, frame_withFault s _⟩

/-- Settles O53: each of the three writes one register or timer. -/
theorem timerTransfers : Obligations.TimerTransfers := by
  intro x
  exact ⟨decodeWord_formatXK (f := 0xF) (kk := 0x07) rfl, decodeWord_formatXK (f := 0xF) (kk := 0x15) rfl,
    decodeWord_formatXK (f := 0xF) (kk := 0x18) rfl, fun s =>
    ⟨exec_writesResult rfl, ⟨_, rfl, rfl, frame_setDT s _⟩, ⟨_, rfl, rfl, frame_setST s _⟩⟩⟩

/-- Settles O54: the latch and the run state are all that the execute part writes. -/
theorem waitForKeyClearsTheLatch : Obligations.WaitForKeyClearsTheLatch := by
  intro x
  exact ⟨decodeWord_formatXK (f := 0xF) (kk := 0x0A) rfl, fun s =>
    ⟨_, rfl, rfl, rfl, frame_setReleased_setRun s _ _⟩⟩

/-- Settles O55: the sum of words wraps at 65536, and five times a nibble fits a word. -/
theorem addressRegisterArithmetic : Obligations.AddressRegisterArithmetic := by
  intro x
  refine ⟨decodeWord_formatXK (f := 0xF) (kk := 0x1E) rfl, decodeWord_formatXK (f := 0xF) (kk := 0x29) rfl, fun s =>
    ⟨⟨_, rfl, ?_, frame_setI s _⟩, ⟨_, rfl, toNat_glyphBase _, frame_setI s _⟩⟩⟩
  rw [State.setI_I, BitVec.toNat_add, zextByte_toNat]

end Sys2Proof.Proofs
end

section
/-! PROOF. The iteration and its fatal faults (60_exceptions.md): quit (O9), the states with no iteration (O10), the poll
(O11), the wait step (O12), the frame tick (O13), faults of step 2 (O15) and of an instruction (O16), and that every
instruction has a next state (O17). Every instruction first makes its checks and then, if none failed, goes to a state that
is no fault: `exec_eq_unlessFault` says this once, with `raisedFault` for the checks. -/

namespace Sys2Proof.Machine

/-! ### The checks of an instruction -/

/-- The fatal fault that an instruction takes in a state, if it takes one (60_exceptions.md R210). -/
def raisedFault (i : Instr) (s : State) : Option FatalFault :=
  match i with
  | .ret => if s.sp.val = 0 then some (.stackUnderflow s.ia) else none
  | .call _ => if s.sp.val = 8 then some (.stackOverflow s.ia) else none
  | .skpVx x | .sknpVx x => if 0xF < (s.getV x).toNat then some (.invalidKey s.ia (s.getV x)) else none
  | .drwVxVyN _ _ n => s.readFaults n.toNat
  | .ldVxMem x => s.readFaults (x.val + 1)
  | .ldBVx _ => s.writeFaults 3
  | .ldMemVx x => s.writeFaults (x.val + 1)
  | _ => none

theorem State.Faulted.of_run_eq {s t : State} (ht : t.Faulted) (h : t.run = s.run) : s.Faulted :=
  ht.imp fun _ hf => h.symm.trans hf

theorem State.popPc_eq_unlessFault (s : State) :
    ∃ t, s.popPc = s.unlessFault (raisedFault .ret s) t ∧ (t.Faulted → s.Faulted) := by
  by_cases h : s.sp.val = 0
  · rw [State.popPc_of_empty h, raisedFault, if_pos h]
    exact ⟨s, rfl, id⟩
  · obtain ⟨j, hj⟩ := Nat.exists_eq_succ_of_ne_zero h
    rw [State.popPc_of_sp (j := ⟨j, by omega⟩) hj, raisedFault, if_neg h]
    exact ⟨_, rfl, id⟩

theorem State.callTo_eq_unlessFault (s : State) (nnn : BitVec 12) :
    ∃ t, s.callTo (zextNnn nnn) = s.unlessFault (raisedFault (.call nnn) s) t ∧ (t.Faulted → s.Faulted) := by
  by_cases h : s.sp.val = 8
  · rw [State.callTo_of_full h, raisedFault, if_pos h]
    exact ⟨s, rfl, id⟩
  · rw [State.callTo_of_sp (j := ⟨s.sp.val, by omega⟩) rfl, raisedFault, if_neg h]
    exact ⟨_, rfl, id⟩

theorem State.skipIfKey_eq_unlessFault (s : State) (x : RegIx) (want : Bool) :
    ∃ t, s.skipIfKey (s.getV x) want = s.unlessFault (raisedFault (.skpVx x) s) t ∧ (t.Faulted → s.Faulted) := by
  by_cases h : 0xF < (s.getV x).toNat
  · rw [State.skipIfKey_of_no_key h, raisedFault, if_pos h]
    exact ⟨s, rfl, id⟩
  · rw [State.skipIfKey_of_key (k := ⟨(s.getV x).toNat, by omega⟩) rfl, raisedFault, if_neg h]
    exact ⟨_, rfl, fun ht => ht.of_run_eq (s.skipIf_run _)⟩

/-- An instruction makes its checks, and if none fails it goes to a state that is no new fault. -/
theorem exec_eq_unlessFault (i : Instr) (s : State) :
    ∃ t, exec i s = s.unlessFault (raisedFault i s) t ∧ (t.Faulted → s.Faulted) := by
  cases i with
  | ret => exact s.popPc_eq_unlessFault
  | call nnn => exact s.callTo_eq_unlessFault nnn
  | skpVx x => exact s.skipIfKey_eq_unlessFault x true
  | sknpVx x => exact s.skipIfKey_eq_unlessFault x false
  | drwVxVyN x y n => exact ⟨_, exec_drwVxVyN x y n s, id⟩
  | ldVxMem x => exact ⟨_, exec_ldVxMem x s, id⟩
  | ldBVx x => exact ⟨_, exec_ldBVx x s, fun ht => ht.of_run_eq (s.storeData_run _)⟩
  | ldMemVx x => exact ⟨_, exec_ldMemVx x s, fun ht => ht.of_run_eq (s.storeData_run _)⟩
  | seVxKk _ _ | sneVxKk _ _ | seVxVy _ _ | sneVxVy _ _ =>
    exact ⟨_, rfl, fun ht => ht.of_run_eq (s.skipIf_run _)⟩
  | ldVxK x => exact ⟨_, rfl, fun ht => absurd ht (State.not_faulted_of_run_eq_waiting rfl)⟩
  | _ => exact ⟨_, rfl, id⟩

theorem State.unlessFault_total (s t : State) (check : Option FatalFault) :
    ∃ u, s.unlessFault check t = .next u := by
  cases check with
  | none => exact ⟨t, rfl⟩
  | some f => exact ⟨_, s.raise_eq f⟩

theorem exec_total (i : Instr) (s : State) : ∃ t, exec i s = .next t := by
  obtain ⟨t, h, _⟩ := exec_eq_unlessFault i s
  rw [h]
  exact s.unlessFault_total t _

/-- An instruction that faults does so by its checks, and taking the fault is all it does. -/
theorem exec_faulted {i : Instr} {s t : State} {f : FatalFault} (h : exec i s = .next t) (hs : ¬ s.Faulted)
    (hf : t.run = .faulted f) : raisedFault i s = some f ∧ t = s.withFault f := by
  obtain ⟨u, hu, hnew⟩ := exec_eq_unlessFault i s
  rcases State.unlessFault_cases (hu.symm.trans h) with ⟨_, rfl⟩ | ⟨g, hg, rfl⟩
  · exact absurd (hnew ⟨f, hf⟩) hs
  · obtain rfl : g = f := RunState.faulted.inj hf
    exact ⟨hg, rfl⟩

/-! ### Which fault a check answers -/

theorem fault_eq_of_check {p : Prop} [Decidable p] {f g : FatalFault} (h : (if p then some g else none) = some f) :
    f = g := (Option.some.inj (Option.ite_none_right_eq_some.1 h).2).symm

/-- The only address that cannot be read is 0xFFF (R52). -/
theorem State.readFaults_some {s : State} {n : Nat} {f : FatalFault} (h : s.readFaults n = some f) :
    f = .inaccessibleDataAddress s.ia 0xFFF := by
  by_cases hok : ∀ k, k < n → s.ea k ≠ 0xFFF
  · rw [State.readFaults_none_iff_ne.2 hok] at h
    cases h
  · push Not at hok
    obtain ⟨k, hk, hmissing⟩ := hok
    exact Option.some.inj (h.symm.trans (State.readFaults_of_missing hk hmissing))

/-- The addresses that cannot be written are 0xFFF and those of the font region (R53). -/
theorem State.writeFaults_some {s : State} {n : Nat} {f : FatalFault} (h : s.writeFaults n = some f) :
    f = .inaccessibleDataAddress s.ia 0xFFF ∨ ∃ a, a < 0x200 ∧ f = .fontRegionWrite s.ia a := by
  obtain ⟨a, ha, hfa⟩ := List.exists_of_findSome?_eq_some h
  obtain ⟨k, _, rfl⟩ := State.mem_eas.1 ha
  by_cases hfont : s.ea k < 0x200
  · rw [State.writeFault_font hfont] at hfa
    exact .inr ⟨_, hfont, (Option.some.inj hfa).symm⟩
  · by_cases hmissing : s.ea k = 0xFFF
    · rw [hmissing, State.writeFault_missing] at hfa
      exact .inl (Option.some.inj hfa).symm
    · rw [State.writeFault_ea_none_iff.2 ⟨Nat.le_of_not_lt hfont, hmissing⟩] at hfa
      cases hfa

/-! ### Steps 1 and 2 -/

/-- A quit changes the run state and takes the input, and empties the output record. -/
theorem frame_quit (s : State) : Frame [.run, .inputs, .iter, .out] s s.beginIteration.quit := by
  intro p hp
  cases p <;> simp_all [Unchanged, State.byteAt, State.getV_eq]

theorem executeNext_total (s : State) : ∃ u, executeNext s = .next u := by
  cases hf : s.fetched with
  | fault f => exact ⟨_, executeNext_of_fault hf⟩
  | instr i => rw [executeNext_of_instr hf]; exact exec_total i _
  | unrecognized op => exact ⟨_, executeNext_of_unrecognized hf⟩

/-- An enabled iteration without a quit has a step 2. -/
theorem State.Enabled.afterStepTwo {s : State} (h : s.Enabled) (hq : s.nextInput.quit = false) :
    ∃ u, AfterStepTwo s u := by
  rcases h with hr | ⟨x, hr⟩
  · obtain ⟨u, hu⟩ := executeNext_total s.polled
    exact ⟨u, afterStepTwo_of_running hr hq hu⟩
  · exact ⟨_, hq, .inr ⟨x, hr, rfl⟩⟩

/-- With a release latched, the wait step puts its key in Vx, empties the latch and runs again (R219). -/
theorem State.waitStep_takes {s : State} {k : Key} (h : s.released = some k) (x : RegIx) :
    ((s.waitStep x).getV x).toNat = k.val ∧ RegFrame [x] s (s.waitStep x) ∧ (s.waitStep x).released = none ∧
      (s.waitStep x).run = .running := by
  have e : s.waitStep x = ((s.setV x (BitVec.ofNat 8 k.val)).setReleased none).setRun .running := by
    rw [State.waitStep, h]
  have hregs := (changesOnly_setV s x (BitVec.ofNat 8 k.val)).regs
  have hVx : ((s.setV x (BitVec.ofNat 8 k.val)).getV x).toNat = k.val := by
    rw [State.getV_setV_same, BitVec.toNat_ofNat]
    omega
  rw [e]
  exact ⟨hVx, hregs, rfl, rfl⟩

theorem State.waitStep_of_not_released {s : State} (h : s.released = none) (x : RegIx) : s.waitStep x = s := by
  rw [State.waitStep, h]

theorem frame_waitStep (s : State) (x : RegIx) : Frame [.V, .released, .run] s (s.waitStep x) := by
  rcases s.waitStep_cases x with ⟨k, _, e⟩ | ⟨_, e⟩ <;> rw [e]
  · exact (frame_setV s x _).trans (frame_setReleased_setRun _ none .running)
  · exact Frame.refl _ s

/-- Step 2 in `Running` leaves the key state, the accumulator, the audio value, the parameters and the inputs alone. -/
theorem frame_executeNext {s u : State} (h : executeNext s = .next u) :
    Frame [.V, .pc, .I, .sp, .stack, .DT, .ST, .mem, .FB, .released, .run, .out] s u := by
  rcases executeNext_cases h with ⟨f, _, rfl⟩ | ⟨i, _, hi⟩ | ⟨op, _, rfl⟩
  · exact (frame_withFault s f).mono (by decide)
  · exact ((frame_setPc s _).trans ((exec_changesOnly hi).parts.mono (changedParts_subset i))).mono (by decide)
  · exact (frame_advance_logUnrecognized s op).mono (by decide)

theorem AfterStepTwo.frame {s u : State} (h : AfterStepTwo s u) :
    Frame [.V, .pc, .I, .sp, .stack, .DT, .ST, .mem, .FB, .released, .run, .out] s.polled u := by
  obtain ⟨_, ⟨_, hu⟩ | ⟨x, _, rfl⟩⟩ := h
  · exact frame_executeNext hu
  · exact (frame_waitStep s.polled x).mono (by decide)

/-- Only step 3 hands over the framebuffer. -/
theorem executeNext_render {s u : State} (h : executeNext s = .next u) : u.out.render = s.out.render := by
  rcases executeNext_cases h with ⟨f, _, rfl⟩ | ⟨i, _, hi⟩ | ⟨op, _, rfl⟩
  · rfl
  · rcases exec_cases hi with ⟨f, rfl⟩ | k
    · rfl
    · rw [k.out, State.advance_out]
  · rfl

theorem AfterStepTwo.render {s u : State} (h : AfterStepTwo s u) : u.out.render = none := by
  obtain ⟨_, ⟨_, hu⟩ | ⟨x, _, rfl⟩⟩ := h
  · exact executeNext_render hu
  · exact congrArg Output.render (frame_waitStep s.polled x .out (by decide))

/-- A step 2 that leaves a fatal fault took it, with no output before. -/
theorem AfterStepTwo.faulted {s u : State} {f : FatalFault} (h : AfterStepTwo s u) (hf : u.run = .faulted f) :
    ∃ v : State, v.out = Output.none ∧ u = v.withFault f := by
  obtain ⟨_, ⟨hr, hu⟩ | ⟨x, hr, rfl⟩⟩ := h
  · rcases executeNext_cases hu with ⟨g, _, rfl⟩ | ⟨i, _, hi⟩ | ⟨op, _, rfl⟩
    · obtain rfl : g = f := RunState.faulted.inj hf
      exact ⟨_, s.polled_out, rfl⟩
    · have hs : ¬ s.polled.advance.Faulted := State.not_faulted_of_run_eq_running hr
      exact ⟨_, s.polled.advance_out, (exec_faulted hi hs hf).2⟩
    · exact absurd ⟨f, hf⟩ (State.not_faulted_of_run_eq_running (s := s.polled.advance.logUnrecognized op) hr)
  · rcases State.waitStep_run (s := s.polled) hr with e | e
    · exact absurd ⟨f, hf⟩ (State.not_faulted_of_run_eq_waiting e)
    · exact absurd ⟨f, hf⟩ (State.not_faulted_of_run_eq_running e)

/-! ### Step 3 -/

/-- A timer goes down by one and stops at 0, as subtraction of numbers does (R203). -/
theorem toNat_timerDown (b : Byte) : (timerDown b).toNat = b.toNat - 1 := by
  unfold timerDown
  split
  · next h => exact BitVec.toNat_sub_of_le (y := 1) (by rwa [BitVec.le_def])
  · next h => omega

theorem State.frameStep_of_tickDue {s u : State} (h : TickDue s u) : u.frameStep s.nextInput.frameDue = u.tick := by
  cases hs : u.cfg.schedule with
  | hostClock =>
    have hdue : s.nextInput.frameDue = true := by simpa [TickDue, hs] using h
    simp [State.frameStep, hs, hdue]
  | virtualClock n =>
    have hdue : n ≤ u.frameAcc + 1 := by simpa [TickDue, hs] using h
    simp [State.frameStep, hs, hdue]

/-- When no tick is due, step 3 counts under `VirtualClock(n)` and does nothing under `HostClock` (R207). -/
theorem State.frameStep_of_not_tickDue {s u : State} (h : ¬ TickDue s u) :
    (u.cfg.schedule = .hostClock ∧ u.frameStep s.nextInput.frameDue = u) ∨
    ∃ n, u.cfg.schedule = .virtualClock n ∧
      u.frameStep s.nextInput.frameDue = { u with frameAcc := u.frameAcc + 1 } := by
  cases hs : u.cfg.schedule with
  | hostClock =>
    have hdue : s.nextInput.frameDue = false := by simpa [TickDue, hs] using h
    exact .inl ⟨rfl, by simp [State.frameStep, hs, hdue]⟩
  | virtualClock n =>
    have hdue : ¬ n ≤ u.frameAcc + 1 := by simpa [TickDue, hs] using h
    exact .inr ⟨n, rfl, by simp [State.frameStep, hs, hdue]⟩

end Sys2Proof.Machine

namespace Sys2Proof.Proofs

open Sys2Proof.Machine

/-- Settles O17: an instruction takes the fault of a failed check or goes on, and both are next states. -/
theorem everyInstructionHasANextState : Obligations.EveryInstructionHasANextState := exec_total

/-- Settles O16: the fault is one of the instruction's checks, and those checks are the listed ones. -/
theorem instructionFaultsArePreciseAndListed : Obligations.InstructionFaultsArePreciseAndListed := by
  intro i s t f hs h hf
  obtain ⟨hraised, rfl⟩ := exec_faulted h hs hf
  refine ⟨frame_withFault s f, rfl, rfl, rfl, rfl, ?_⟩
  cases i with
  | ret => exact .inl ⟨rfl, fault_eq_of_check hraised⟩
  | call nnn => exact .inr (.inl ⟨⟨nnn, rfl⟩, fault_eq_of_check hraised⟩)
  | skpVx x => exact .inr (.inr (.inl ⟨x, .inl rfl, fault_eq_of_check hraised⟩))
  | sknpVx x => exact .inr (.inr (.inl ⟨x, .inr rfl, fault_eq_of_check hraised⟩))
  | drwVxVyN x y n => exact .inr (.inr (.inr (.inl ⟨⟨x, y, n, rfl⟩, State.readFaults_some hraised⟩)))
  | ldVxMem x => exact .inr (.inr (.inr (.inr (.inl ⟨⟨x, rfl⟩, State.readFaults_some hraised⟩))))
  | ldBVx x => exact .inr (.inr (.inr (.inr (.inr ⟨⟨x, .inl rfl⟩, State.writeFaults_some hraised⟩))))
  | ldMemVx x => exact .inr (.inr (.inr (.inr (.inr ⟨⟨x, .inr rfl⟩, State.writeFaults_some hraised⟩))))
  | _ => cases hraised

/-- Settles O15: the faulted state is one with no output in which the fault was taken, and steps 3 and 4 leave it alone. -/
theorem faultEndsTheIteration : Obligations.FaultEndsTheIteration := by
  intro s u f hu hf
  have hstep := step_of_afterStepTwo hu
  rw [State.finishIteration_of_faulted _ ⟨f, hf⟩] at hstep
  obtain ⟨v, hv, rfl⟩ := hu.faulted hf
  exact ⟨hstep, rfl, congrArg Output.render hv, congrArg Output.audio hv, rfl⟩

/-- Settles O11: neither step 2 nor steps 3 and 4 write the key state. -/
theorem pollReplacesKeysAndLatchesRelease : Obligations.PollReplacesKeysAndLatchesRelease := by
  refine ⟨fun s t hq h => ?_, fun s => ⟨?_, frame_polled s⟩⟩
  · rcases step_cases h with ⟨_, hquit, _⟩ | ⟨u, hu, rfl⟩
    · simp [hq] at hquit
    · calc (u.finishIteration s.nextInput.frameDue).key
          = u.key := frame_finishIteration u _ .key (by decide)
        _ = s.polled.key := hu.frame .key (by decide)
        _ = s.nextInput.keys := s.polled_key
  · rw [State.polled_released]
    cases s.nextInput.release <;> rfl

/-- Settles O12: the wait step in its two cases, with steps 3 and 4 after it, which write no register, no latch and no run
state. -/
theorem waitStepTakesTheRelease : Obligations.WaitStepTakesTheRelease := by
  intro s x hr hq
  have hafter : AfterStepTwo s (s.polled.waitStep x) := ⟨hq, .inr ⟨x, hr, rfl⟩⟩
  refine ⟨fun k hk => ?_, fun hnone => ?_⟩
  · obtain ⟨hVx, hregs, hreleased, hrun⟩ := State.waitStep_takes hk x
    have hframe := frame_waitStep s.polled x
    have hfinish := frame_finishIteration (s.polled.waitStep x) s.nextInput.frameDue
    have hV := hfinish .V (by decide)
    refine ⟨⟨_, hafter, hVx, hregs, hreleased, hrun, hframe⟩, _, step_of_afterStepTwo hafter, ?_, ?_, ?_, ?_, ?_⟩
    · rw [hV x]
      exact hVx
    · exact fun r hne => (hV r).trans (hregs r hne)
    · exact Eq.trans (hfinish .released (by decide)) hreleased
    · rw [State.finishIteration_run, hrun]
    · exact (((frame_polled s).trans hframe).trans hfinish).mono (by decide)
  · rw [State.waitStep_of_not_released hnone] at hafter
    have hfinish := frame_finishIteration s.polled s.nextInput.frameDue
    exact ⟨hafter, _, step_of_afterStepTwo hafter, Eq.trans (hfinish .released (by decide)) hnone,
      ((frame_polled s).trans hfinish).mono (by decide)⟩

/-- Settles O13: by whether the tick is due; step 4 after it writes neither the timers nor the accumulator. -/
theorem frameTickComesAfterStepTwo : Obligations.FrameTickComesAfterStepTwo := by
  intro s u hu hf
  refine ⟨_, step_of_afterStepTwo hu, frame_finishIteration u _, fun hdue => ?_, fun hdue => ?_⟩
  · rw [State.finishIteration_of_not_faulted _ hf, State.frameStep_of_tickDue hdue]
    exact ⟨toNat_timerDown u.DT, toNat_timerDown u.ST, rfl, rfl⟩
  · rw [State.finishIteration_of_not_faulted _ hf]
    rcases State.frameStep_of_not_tickDue hdue with ⟨hs, e⟩ | ⟨n, hs, e⟩ <;> rw [e]
    · exact ⟨rfl, rfl, hu.render, by simp [hs], fun _ => rfl⟩
    · exact ⟨rfl, rfl, hu.render, fun _ => rfl, by simp [hs]⟩

/-- Settles O9: a quit is the whole iteration. -/
theorem quitEndsTheRunAtOnce : Obligations.QuitEndsTheRunAtOnce :=
  fun s he hq => ⟨_, step_of_quit he hq, rfl, rfl, frame_quit s⟩

/-- Settles O10: an enabled iteration ends by quit or has a step 2, because every instruction has a next state. -/
theorem stepStopsExactlyInTheTerminalStates : Obligations.StepStopsExactlyInTheTerminalStates := by
  refine fun s => ⟨fun hr => by rw [step, hr], fun f hr => by rw [step, hr], fun he => ?_⟩
  cases hq : s.nextInput.quit with
  | true => exact ⟨_, step_of_quit he hq⟩
  | false =>
    obtain ⟨u, hu⟩ := he.afterStepTwo hq
    exact ⟨_, step_of_afterStepTwo hu⟩

end Sys2Proof.Proofs
end

section
/-! PROOF. Initialisation (70_reset_and_hazards.md, O28): which images are accepted, and what each byte of memory reads as
after an accepted load, below, in and above the image. -/

namespace Sys2Proof

theorem Config.resetByte_of_font (c : Config) {k : Nat} (h : k < 80) : c.resetByte k = c.fontData[k] := by
  rw [Config.resetByte, Vector.getElem?_eq_getElem h, Option.getD_some]

theorem Config.resetByte_of_above_font (c : Config) {a : Nat} (h : 80 ≤ a) : c.resetByte a = 0 := by
  rw [Config.resetByte, Vector.getElem?_eq_none h, Option.getD_none]

theorem imageFits_iff {image : List Byte} : imageFits image = true ↔ image.length ≤ 3215 := decide_eq_true_iff

end Sys2Proof

namespace Sys2Proof.Machine

section
variable {c : Config} {image : List Byte}

theorem State.init_of_fits (h : image.length ≤ 3215) :
    State.init c image =
      some { State.reset with cfg := c, mem := Memory.ofImage c.resetByte Params.progBase image } :=
  if_pos (imageFits_iff.2 h)

theorem State.init_of_too_long (h : 3215 < image.length) : State.init c image = none :=
  if_neg fun hfits => absurd (imageFits_iff.1 hfits) (Nat.not_le.2 h)

variable {s : State}

theorem State.byteAt_of_init_in_image (h : State.init c image = some s) {k : Nat} (hk : k < image.length) :
    s.byteAt (Params.progBase + k) = image[k] := by
  rw [(State.init_mem h).2, if_pos (Nat.le_add_right _ k), Nat.add_sub_cancel_left, List.getElem?_eq_getElem hk,
    Option.getD_some]

/-- Outside the image, memory is as it was before the load. -/
theorem State.byteAt_of_init_outside_image (h : State.init c image = some s) {a : Nat}
    (ha : a < Params.progBase ∨ Params.progBase + image.length ≤ a) : s.byteAt a = c.resetByte a := by
  rw [(State.init_mem h).2]
  rcases ha with hbelow | habove
  · rw [if_neg (Nat.not_le.2 hbelow)]
  · rw [if_pos (Nat.le_of_add_right_le habove), List.getElem?_eq_none (Nat.le_sub_of_add_le' habove), Option.getD_none]

end

end Sys2Proof.Machine

namespace Sys2Proof.Proofs

open Sys2Proof.Machine

/-- Settles O28: an accepted image covers just its own addresses, and every other byte reads as before the load: as the
font below 0x050, as 0x00 above. -/
theorem initialisationLoadsTheImage : Obligations.InitialisationLoadsTheImage := by
  refine fun c image => ⟨fun hfits => ?_, State.init_of_too_long⟩
  have hinit := State.init_of_fits (c := c) hfits
  refine ⟨_, hinit, rfl, fun k hk => State.byteAt_of_init_in_image hinit hk, fun k hk => ?_, fun a hfont ha => ?_, rfl⟩
  · have hbelow : k < Params.progBase := Nat.lt_trans hk (by decide)
    rw [State.byteAt_of_init_outside_image hinit (.inl hbelow), c.resetByte_of_font hk]
  · rw [State.byteAt_of_init_outside_image hinit ha, c.resetByte_of_above_font hfont]

end Sys2Proof.Proofs
end
